-- ==== Sys2Proof/Word.lean ====
section
/-! DEFINITION. The words of the block: bytes, 32-bit data words, command words and response words
(00_scope.md R5, R6: bit 0 is the least significant bit; every value is unsigned, R7). -/

namespace Sys2Proof

/-- A byte of a tag or of a message (20_memory.md R33). -/
abbrev Byte := BitVec 8

/-- A 32-bit datum: the `crc` register, an operand, a result (20_memory.md R38). -/
abbrev Word := BitVec 32

/-- A command word: `cmd[39:32]` opcode, `cmd[31:0]` operand (30_encoding.md R45). -/
abbrev CmdWord := BitVec 40

/-- A response word: `rsp[35:32]` status, `rsp[31:0]` result (30_encoding.md R46). -/
abbrev RspWord := BitVec 36

/-- An opcode, `cmd[39:32]` (30_encoding.md R45). -/
abbrev Opcode := BitVec 8

end Sys2Proof
end

