-- ==== Sys2Proof/Syntax.lean ====
section
/-! DEFINITION. The ten commands of command set v1 (30_encoding.md R49, opcode_table.json), each with its
operand field and nothing else. -/

namespace Sys2Proof

/-- One command. The operand of form `BYTE` is a byte and that of form `WORD` a 32-bit word
(30_encoding.md R47, R48), so no command holds a stray operand bit. -/
inductive Instr where
  /-- `NOP`, 42_control.md R95. -/
  | nop
  /-- `TYPE_LOAD w`, 40_chunktype.md R64. -/
  | typeLoad (w : Word)
  /-- `TYPE_READ`, 40_chunktype.md R65. -/
  | typeRead
  /-- `TYPE_PROPS`, 40_chunktype.md R66. -/
  | typeProps
  /-- `TYPE_EQ w`, 40_chunktype.md R67. -/
  | typeEq (w : Word)
  /-- `CRC_INIT`, 41_crc.md R82. -/
  | crcInit
  /-- `CRC_BYTE b`, 41_crc.md R83. -/
  | crcByte (b : Byte)
  /-- `CRC_TAG`, 41_crc.md R84. -/
  | crcTag
  /-- `CRC_READ`, 41_crc.md R85. -/
  | crcRead
  /-- `CRC_CHECK e`, 41_crc.md R86. -/
  | crcCheck (e : Word)
  deriving DecidableEq, Repr

end Sys2Proof
end

