-- ==== Sys2Proof/WellFormed.lean ====
section
/-! DEFINITION. Operand forms and the well-formedness check (30_encoding.md R47): the operand bits a form does
not use must be zero. -/

namespace Sys2Proof

/-- The three operand forms (30_encoding.md R47). -/
inductive Form where
  | none
  | byte
  | word
  deriving DecidableEq, Repr

/-- The operand bits that must be zero (30_encoding.md R47, third column). -/
def mustBeZero : Form → Word
  | .none => 0xFFFFFFFF
  | .byte => 0xFFFFFF00
  | .word => 0x00000000

/-- The well-formedness check on an operand field of a given form. -/
def operandWellFormed (f : Form) (operand : Word) : Bool :=
  operand &&& mustBeZero f == 0

/-- The operand form of a command (30_encoding.md R47, R49). -/
def formOf : Instr → Form
  | .nop => .none
  | .typeLoad _ => .word
  | .typeRead => .none
  | .typeProps => .none
  | .typeEq _ => .word
  | .crcInit => .none
  | .crcByte _ => .byte
  | .crcTag => .none
  | .crcRead => .none
  | .crcCheck _ => .word

/-- The 32-bit operand field of a command (30_encoding.md R47, R48). -/
def operandOf : Instr → Word
  | .nop => 0
  | .typeLoad w => w
  | .typeRead => 0
  | .typeProps => 0
  | .typeEq w => w
  | .crcInit => 0
  | .crcByte b => b.setWidth 32
  | .crcTag => 0
  | .crcRead => 0
  | .crcCheck e => e

/-- A command is well formed when its operand field passes its form's check. The types of `Instr` leave no
command that fails it (`Sys2Proof.Laws.EncodingFields`): the check bites on operand fields, not on `Instr`. -/
def wellFormed (i : Instr) : Bool :=
  operandWellFormed (formOf i) (operandOf i)

end Sys2Proof
end

