-- ==== Sys2Proof/Decode.lean ====
section
/-! DEFINITION. Decoding of command words by the match and mask rows of the opcode map (30_encoding.md R49 to
R51), total and by name, and the encoder. -/

namespace Sys2Proof

/-- `cmd[39:32]` (30_encoding.md R45). -/
def opcodeField (w : CmdWord) : Opcode := w.extractLsb' 32 8

/-- `cmd[31:0]` (30_encoding.md R45). -/
def operandField (w : CmdWord) : Word := w.extractLsb' 0 32

/-- `cmd[7:0]`, the operand of form `BYTE` (30_encoding.md R47). -/
def byteField (w : CmdWord) : Byte := w.extractLsb' 0 8

/-- A row of the opcode map: a word `w` is the row's command exactly when `w & mask == pattern`. -/
structure Row where
  pattern : CmdWord
  mask    : CmdWord
  command : CmdWord → Instr

/-- Whether a word is the command of a row (30_encoding.md R49). -/
def rowMatches (w : CmdWord) (r : Row) : Bool := w &&& r.mask == r.pattern

/-- The ten rows of 30_encoding.md R49, in its order. -/
def opcodeMap : List Row :=
  [ ⟨0x0000000000, 0xFFFFFFFFFF, fun _ => .nop⟩,
    ⟨0x1000000000, 0xFF00000000, fun w => .typeLoad (operandField w)⟩,
    ⟨0x1100000000, 0xFFFFFFFFFF, fun _ => .typeRead⟩,
    ⟨0x1200000000, 0xFFFFFFFFFF, fun _ => .typeProps⟩,
    ⟨0x1300000000, 0xFF00000000, fun w => .typeEq (operandField w)⟩,
    ⟨0x2000000000, 0xFFFFFFFFFF, fun _ => .crcInit⟩,
    ⟨0x2100000000, 0xFFFFFFFF00, fun w => .crcByte (byteField w)⟩,
    ⟨0x2200000000, 0xFFFFFFFFFF, fun _ => .crcTag⟩,
    ⟨0x2300000000, 0xFFFFFFFFFF, fun _ => .crcRead⟩,
    ⟨0x2400000000, 0xFF00000000, fun w => .crcCheck (operandField w)⟩ ]

/-- Why a word is illegal (30_encoding.md R51): its opcode is in no row, or a must-be-zero operand bit is 1.
Both are answered alike. -/
inductive Illegal where
  | undefinedOpcode (opcode : Opcode)
  | strayOperandBits (opcode : Opcode)
  deriving DecidableEq, Repr

/-- The name of an illegal word's defect. -/
def illegalReason (w : CmdWord) : Illegal :=
  if opcodeMap.any (fun r => opcodeField r.pattern == opcodeField w) then
    .strayOperandBits (opcodeField w)
  else
    .undefinedOpcode (opcodeField w)

/-- `Decode(w)` (30_encoding.md R50): the command of the row that matches, otherwise `illegal`. -/
def decode (w : CmdWord) : Except Illegal Instr :=
  match opcodeMap.find? (rowMatches w) with
  | some r => .ok (r.command w)
  | none => .error (illegalReason w)

/-- The opcode of a command (30_encoding.md R49, first column). -/
def opcodeOf : Instr → Opcode
  | .nop => 0x00
  | .typeLoad _ => 0x10
  | .typeRead => 0x11
  | .typeProps => 0x12
  | .typeEq _ => 0x13
  | .crcInit => 0x20
  | .crcByte _ => 0x21
  | .crcTag => 0x22
  | .crcRead => 0x23
  | .crcCheck _ => 0x24

/-- The command word of a command: opcode in bits 39:32, operand in bits 31:0 (30_encoding.md R45). -/
def encode (i : Instr) : CmdWord := opcodeOf i ++ operandOf i

/-- The command word whose `nbits` bits are `w`, as opcode_table.json numbers them (bit 0 the least
significant bit of the one 40-bit word, 30_encoding.md R53). -/
def tableWord (nbits w : Nat) : CmdWord := BitVec.ofNat 40 (w % 2 ^ nbits)

/-- What the decoder reads from a word of opcode_table.json. -/
def decodeTableWord (nbits w : Nat) : Option Instr :=
  match decode (tableWord nbits w) with
  | .ok i => some i
  | .error _ => none

end Sys2Proof
end

