-- ==== Sys2Proof/Config.lean ====
section
/-! DEFINITION. The parameters of the block, every one fixed by 00_scope.md R5 ("the model takes no argument").
There is no free value: 10_state.md R22 makes every response and every next state defined. -/

namespace Sys2Proof.Config

/-- CRC generator polynomial, normal form (41_crc.md R75). -/
abbrev crcPolyNormal : Word := 0x04C11DB7

/-- CRC generator polynomial, reflected form: the constant the rules use (41_crc.md R75, R76). -/
abbrev crcPoly : Word := 0xEDB88320

/-- CRC initial register value (41_crc.md R75, R82). -/
abbrev crcInit : Word := 0xFFFFFFFF

/-- CRC final XOR (41_crc.md R75, R78). -/
abbrev crcXorOut : Word := 0xFFFFFFFF

/-- Lowest and highest uppercase ASCII letter (40_chunktype.md R60). -/
abbrev upperFirst : Byte := 0x41
abbrev upperLast : Byte := 0x5A

/-- Lowest and highest lowercase ASCII letter (40_chunktype.md R60). -/
abbrev lowerFirst : Byte := 0x61
abbrev lowerLast : Byte := 0x7A

/-- The property bit of a tag byte: bit 5, mask 0x20 (40_chunktype.md R62, 90_conflicts.md C1). -/
abbrev propBitIndex : Nat := 5

end Sys2Proof.Config
end

