-- ==== Sys2Proof/Machine/State.lean ====
section
/-! DEFINITION. The state of the machine as plain data: the block's own 65 bits (10_state.md R11), and, as the
model's two fields beside it, the inputs still to come and the response of the cycle just ended. -/

namespace Sys2Proof.Machine

/-- The four tag registers `tag[0..3]`; `b0` is the first (leftmost) byte (10_state.md R13). -/
structure Tag where
  b0 : Byte
  b1 : Byte
  b2 : Byte
  b3 : Byte
  deriving DecidableEq, Repr

/-- The complete architectural state, 65 bits (10_state.md R11). -/
structure Block where
  /-- The running remainder, reflected, before the final XOR (10_state.md R12). -/
  crc : Word
  /-- The bytes of the current ChunkType (10_state.md R13). -/
  tag : Tag
  /-- The only flag: the tag registers hold a ChunkType (10_state.md R14). -/
  tagValid : Bool
  deriving DecidableEq, Repr

/-- The five statuses (60_exceptions.md R101). The codes 0x5 to 0xF are never produced. -/
inductive Status where
  | ok
  | typeParseError
  | crcMismatch
  | noTag
  | illegalCmd
  deriving DecidableEq, Repr

/-- The response to an accepted command (30_encoding.md R46). -/
structure Response where
  status : Status
  result : Word
  deriving DecidableEq, Repr

/-- The input pins sampled at one rising edge of `clk` (10_state.md R19). A pin is 0 or 1 (log entry 5). -/
structure CycleIn where
  rst      : Bool
  cmdValid : Bool
  cmd      : CmdWord
  deriving DecidableEq, Repr

/-- The machine between two rising edges. -/
structure State where
  /-- The architectural state (10_state.md R11). -/
  block  : Block
  /-- DESIGN CHOICE (log entry 1): the pins at the rising edges to come, next edge first. -/
  inputs : List CycleIn
  /-- DESIGN CHOICE (log entry 3): the response given in the cycle that has just ended (10_state.md R22). -/
  rsp    : Option Response
  deriving DecidableEq, Repr

/-- The reasons the machine stops with a fault: none. "Nothing is fatal and nothing hangs"
(60_exceptions.md R114); a failure is a status in the response (R100). No step can raise a fault, so the type
is empty: safe, since no claim can rest on a stop the block does not have (log entry 8). -/
inductive Fault where
  deriving DecidableEq, Repr

/-- The reasons the model has no meaning for a command. -/
inductive Refusal where
  /-- Raised by an arm of `exec` for a command without a meaning. Safe. No arm raises it: all ten commands
  have their meaning. -/
  | notModelled (mnemonic : String)
  deriving DecidableEq, Repr

/-- The tag registers with no ChunkType in them: four zero bytes (10_state.md R15, R23). -/
def zeroTag : Tag := ⟨0x00, 0x00, 0x00, 0x00⟩

/-- `ResetState` (10_state.md R23). -/
def resetBlock : Block :=
  { crc := Config.crcInit, tag := zeroTag, tagValid := false }

/-- The machine right after reset (10_state.md R23). No input is given yet and no response stands
(DESIGN CHOICE, log entries 1, 3 and 4). -/
def State.reset : State :=
  { block := resetBlock, inputs := [], rsp := none }

end Sys2Proof.Machine
end

