-- ==== Sys2Proof/Machine/Operands.lean ====
section
/-! DEFINITION. Byte lanes of tags and numbers, and the response word (20_memory.md R34 to R36,
30_encoding.md R46, R48). -/

namespace Sys2Proof.Machine

/-- Byte 0 of a tag word, `w[31:24]` (20_memory.md R34). -/
def lane0 (w : Word) : Byte := w.extractLsb' 24 8

/-- Byte 1 of a tag word, `w[23:16]`. -/
def lane1 (w : Word) : Byte := w.extractLsb' 16 8

/-- Byte 2 of a tag word, `w[15:8]`. -/
def lane2 (w : Word) : Byte := w.extractLsb' 8 8

/-- Byte 3 of a tag word, `w[7:0]`. -/
def lane3 (w : Word) : Byte := w.extractLsb' 0 8

/-- `b0 ++ b1 ++ b2 ++ b3`, `b0` in bits 31:24: a tag word (20_memory.md R34), or a stored CRC assembled
most significant byte first (R35). -/
def wordOfBytes (b0 b1 b2 b3 : Byte) : Word := b0 ++ b1 ++ b2 ++ b3

/-- The four bytes of a tag word, as the tag registers hold them (40_chunktype.md R61, R64). -/
def tagOfWord (w : Word) : Tag := ⟨lane0 w, lane1 w, lane2 w, lane3 w⟩

/-- `TagWord` of the tag registers (40_chunktype.md R61). -/
def tagWord (t : Tag) : Word := wordOfBytes t.b0 t.b1 t.b2 t.b3

/-- The tag bytes in stream order, `tag[0]` first (20_memory.md R36). -/
def tagBytes (t : Tag) : List Byte := [t.b0, t.b1, t.b2, t.b3]

/-- The bytes a host writes for a CRC value, most significant first (20_memory.md R35). -/
def crcRecordBytes (v : Word) : List Byte := [lane0 v, lane1 v, lane2 v, lane3 v]

/-- `zext_32` of a byte (00_scope.md R7). -/
def zextByte (b : Byte) : Word := b.setWidth 32

/-- `zext_32` of the four property bits (00_scope.md R7, 30_encoding.md R48). -/
def zextProps (p : BitVec 4) : Word := p.setWidth 32

/-- The numeric status codes (60_exceptions.md R101). -/
def statusCode : Status → BitVec 4
  | .ok => 0x0
  | .typeParseError => 0x1
  | .crcMismatch => 0x2
  | .noTag => 0x3
  | .illegalCmd => 0x4

/-- The response word: status in bits 35:32, result in bits 31:0 (30_encoding.md R46). -/
def responseWord (r : Response) : RspWord := statusCode r.status ++ r.result

/-- The 65 state bits as one value, `crc`, then `tag[0..3]`, then `tag_valid` (10_state.md R11). -/
def packBlock (b : Block) : BitVec 65 := b.crc ++ tagWord b.tag ++ BitVec.ofBool b.tagValid

/-- The state that a 65-bit value stands for (10_state.md R11). -/
def unpackBlock (v : BitVec 65) : Block :=
  { crc := v.extractLsb' 33 32, tag := tagOfWord (v.extractLsb' 1 32), tagValid := v.getLsbD 0 }

end Sys2Proof.Machine
end

