-- ==== Sys2Proof/Machine/Crc32.lean ====
section
/-! DEFINITION. The checksum functions (41_crc.md R76 to R78), and the two equivalent forms R79 and R80. -/

namespace Sys2Proof.Machine

/-- One of the eight steps of `CrcUpdate`: the test looks at bit 0 before the shift (41_crc.md R76). -/
def crcStep (c : Word) : Word :=
  if c.getLsbD 0 then (c >>> 1) ^^^ Config.crcPoly else c >>> 1

/-- `n` steps (41_crc.md R76). -/
def crcSteps : Nat → Word → Word
  | 0, c => c
  | n + 1, c => crcSteps n (crcStep c)

/-- `CrcUpdate(c, b)` (41_crc.md R76, the normative definition). -/
def crcUpdate (c : Word) (b : Byte) : Word := crcSteps 8 (c ^^^ zextByte b)

/-- `CrcBytes(c, m)`: the fold over a message in stream order (41_crc.md R77). -/
def crcBytes : Word → List Byte → Word
  | c, [] => c
  | c, b :: m => crcBytes (crcUpdate c b) m

/-- `CrcOut(c)`: the checksum a running remainder stands for (41_crc.md R78). -/
def crcOut (c : Word) : Word := c ^^^ Config.crcXorOut

/-- `Crc32(m)`: the checksum of a whole message (41_crc.md R77). -/
def crc32 (m : List Byte) : Word := crcBytes Config.crcInit m ^^^ Config.crcXorOut

/-- `T[i]`, the table of the table form (41_crc.md R79): a constant, not state (10_state.md R26). -/
def crcTable (i : Byte) : Word := crcUpdate 0 i

/-- The table form of `CrcUpdate` (41_crc.md R79). -/
def crcUpdateTable (c : Word) (b : Byte) : Word :=
  (c >>> 8) ^^^ crcTable ((c ^^^ zextByte b).extractLsb' 0 8)

/-- One step of the left-shifting form: the test looks at bit 31 (41_crc.md R80). -/
def crcStepNormal (r : Word) : Word :=
  if r.getLsbD 31 then (r <<< 1) ^^^ Config.crcPolyNormal else r <<< 1

/-- `n` left-shifting steps (41_crc.md R80). -/
def crcStepsNormal : Nat → Word → Word
  | 0, r => r
  | n + 1, r => crcStepsNormal n (crcStepNormal r)

/-- `CrcUpdateN(r, b)`: the reflected byte goes into bits 31:24 (41_crc.md R80). -/
def crcUpdateNormal (r : Word) (b : Byte) : Word :=
  crcStepsNormal 8 (r ^^^ (zextByte b.reverse <<< 24))

/-- `CrcBytesN(r, m)` (41_crc.md R80). -/
def crcBytesNormal : Word → List Byte → Word
  | r, [] => r
  | r, b :: m => crcBytesNormal (crcUpdateNormal r b) m

end Sys2Proof.Machine
end

