-- ==== Sys2Proof/Machine/Flags.lean ====
section
/-! DEFINITION. Letter classes, the construction condition that decides `tag_valid`, and the four properties
(40_chunktype.md R60 to R63). -/

namespace Sys2Proof.Machine

/-- `IsUpper(b)` (40_chunktype.md R60). -/
def isUpper (b : Byte) : Bool := decide (Config.upperFirst ≤ b) && decide (b ≤ Config.upperLast)

/-- `IsLower(b)` (40_chunktype.md R60). -/
def isLower (b : Byte) : Bool := decide (Config.lowerFirst ≤ b) && decide (b ≤ Config.lowerLast)

/-- `IsLetter(b)` (40_chunktype.md R60). -/
def isLetter (b : Byte) : Bool := isUpper b || isLower b

/-- Every tag byte is an ASCII letter. -/
def tagLetters (t : Tag) : Bool := isLetter t.b0 && isLetter t.b1 && isLetter t.b2 && isLetter t.b3

/-- `TagOk(w)`, the condition of construction (40_chunktype.md R61). -/
def tagOk (w : Word) : Bool := tagLetters (tagOfWord w)

/-- `PropBit(b) = b[5]` (40_chunktype.md R62). -/
def propBit (b : Byte) : Bool := b.getLsbD Config.propBitIndex

/-- `is_critical`: byte 0 uppercase (40_chunktype.md R63). -/
def isCritical (t : Tag) : Bool := !propBit t.b0

/-- `is_public`: byte 1 uppercase (40_chunktype.md R63). -/
def isPublic (t : Tag) : Bool := !propBit t.b1

/-- `is_reserved_bit_valid`: byte 2 uppercase (40_chunktype.md R63, R70). -/
def isReservedBitValid (t : Tag) : Bool := !propBit t.b2

/-- `is_safe_to_copy`: byte 3 lowercase (40_chunktype.md R63). -/
def isSafeToCopy (t : Tag) : Bool := propBit t.b3

/-- `Props` of the tag bytes: bit `i` belongs to byte `i` (40_chunktype.md R63). -/
def tagProps (t : Tag) : BitVec 4 :=
  BitVec.ofBool (isSafeToCopy t) ++ BitVec.ofBool (isReservedBitValid t) ++
    BitVec.ofBool (isPublic t) ++ BitVec.ofBool (isCritical t)

/-- `Props(w)` of a tag word (40_chunktype.md R63). -/
def props (w : Word) : BitVec 4 := tagProps (tagOfWord w)

end Sys2Proof.Machine
end

