-- ==== Sys2Proof/Machine/Ops.lean ====
section
/-! DEFINITION. The shared operations of the meanings: register writes, the response, the missing-tag test and
the answer to an illegal word. There is no memory (20_memory.md R30) and no trap entry or return
(60_exceptions.md R109, R110): the whole effect of a failure is its response and the writes of R108. -/

namespace Sys2Proof.Machine

/-- `crc <- c` (00_scope.md R7). -/
def setCrc (c : Word) (s : State) : State :=
  { s with block := { s.block with crc := c } }

/-- The four tag registers and `tag_valid <- 1`, written together (10_state.md R13, R14). -/
def setTag (t : Tag) (s : State) : State :=
  { s with block := { s.block with tag := t, tagValid := true } }

/-- `tag[0..3] <- 0x00`, `tag_valid <- 0` (40_chunktype.md R64, corner case (a)). -/
def clearTag (s : State) : State :=
  { s with block := { s.block with tag := zeroTag, tagValid := false } }

/-- The state after reset was sampled: the whole block at `ResetState` (70_reset_and_hazards.md R120). -/
def resetState (s : State) : State :=
  { s with block := resetBlock }

/-- `respond(S, r)` (00_scope.md R7): the command completes with the response. -/
def respond (status : Status) (result : Word) (s : State) : Host.Outcome State Fault Refusal :=
  .next { s with rsp := some ⟨status, result⟩ }

/-- The test of the four tag-dependent commands: `NO_TAG` when `tag_valid == 0` (60_exceptions.md R104). -/
def needTag (command : State → Host.Outcome State Fault Refusal) (s : State) :
    Host.Outcome State Fault Refusal :=
  if s.block.tagValid then command s else respond .noTag 0x00000000 s

/-- Absorbs bytes: `crc <- c'`, `respond(OK, CrcOut(c'))` (41_crc.md R83, R84, R87). -/
def absorb (m : List Byte) (s : State) : Host.Outcome State Fault Refusal :=
  respond .ok (crcOut (crcBytes s.block.crc m)) (setCrc (crcBytes s.block.crc m) s)

/-- The answer to a word that decodes to `illegal`: no state change (30_encoding.md R51, 60_exceptions.md R105). -/
def illegalCommand (s : State) : Host.Outcome State Fault Refusal :=
  respond .illegalCmd 0x00000000 s

end Sys2Proof.Machine
end

