-- ==== Sys2Proof/Machine/ChunkType.lean ====
section
/-! DEFINITION. The ChunkType unit: `TYPE_LOAD`, `TYPE_READ`, `TYPE_PROPS`, `TYPE_EQ` (40_chunktype.md). -/

namespace Sys2Proof.Machine

/-- `TYPE_LOAD w` (40_chunktype.md R64). A failed load clears the held tag, corner case (a). -/
def execTypeLoad (w : Word) (s : State) : Host.Outcome State Fault Refusal :=
  if tagOk w then respond .ok (zextProps (props w)) (setTag (tagOfWord w) s)
  else respond .typeParseError 0x00000000 (clearTag s)

/-- `TYPE_READ` (40_chunktype.md R65). -/
def execTypeRead (s : State) : Host.Outcome State Fault Refusal :=
  needTag (fun s => respond .ok (tagWord s.block.tag) s) s

/-- `TYPE_PROPS` (40_chunktype.md R66). -/
def execTypeProps (s : State) : Host.Outcome State Fault Refusal :=
  needTag (fun s => respond .ok (zextProps (props (tagWord s.block.tag))) s) s

/-- `TYPE_EQ w` (40_chunktype.md R67): the operand is not letter-checked. -/
def execTypeEq (w : Word) (s : State) : Host.Outcome State Fault Refusal :=
  needTag (fun s =>
    if w == tagWord s.block.tag then respond .ok 0x00000001 s else respond .ok 0x00000000 s) s

end Sys2Proof.Machine
end

