-- ==== Sys2Proof/Machine/Control.lean ====
section
/-! DEFINITION. The control family: `NOP` (42_control.md R95). -/

namespace Sys2Proof.Machine

/-- `NOP`: `respond(OK, 0)` (42_control.md R95). -/
def execNop (s : State) : Host.Outcome State Fault Refusal :=
  respond .ok 0x00000000 s

end Sys2Proof.Machine
end

