-- ==== Sys2Proof/Machine/CrcUnit.lean ====
section
/-! DEFINITION. The CRC unit: `CRC_INIT`, `CRC_BYTE`, `CRC_TAG`, `CRC_READ`, `CRC_CHECK` (41_crc.md). -/

namespace Sys2Proof.Machine

/-- `CRC_INIT` (41_crc.md R82). -/
def execCrcInit (s : State) : Host.Outcome State Fault Refusal :=
  respond .ok 0x00000000 (setCrc Config.crcInit s)

/-- `CRC_BYTE b` (41_crc.md R83). -/
def execCrcByte (b : Byte) (s : State) : Host.Outcome State Fault Refusal :=
  absorb [b] s

/-- `CRC_TAG` (41_crc.md R84): `tag[0]` first; it neither initialises nor consumes. -/
def execCrcTag (s : State) : Host.Outcome State Fault Refusal :=
  needTag (fun s => absorb (tagBytes s.block.tag) s) s

/-- `CRC_READ` (41_crc.md R85). -/
def execCrcRead (s : State) : Host.Outcome State Fault Refusal :=
  respond .ok (crcOut s.block.crc) s

/-- `CRC_CHECK e` (41_crc.md R86): the result is the computed checksum in both outcomes. -/
def execCrcCheck (e : Word) (s : State) : Host.Outcome State Fault Refusal :=
  if crcOut s.block.crc == e then respond .ok (crcOut s.block.crc) s
  else respond .crcMismatch (crcOut s.block.crc) s

end Sys2Proof.Machine
end

