-- ==== Sys2Proof/Machine/Dispatch.lean ====
section
/-! DEFINITION. One arm per command: `exec` calls its meaning (10_state.md R22, the rule of the decoded command). -/

namespace Sys2Proof.Machine

def exec (i : Instr) (s : State) : Host.Outcome State Fault Refusal :=
  match i with
  | .nop => Sys2Proof.Machine.execNop s
  -- the ChunkType unit
  | .typeLoad w => Sys2Proof.Machine.execTypeLoad w s
  | .typeRead => Sys2Proof.Machine.execTypeRead s
  | .typeProps => Sys2Proof.Machine.execTypeProps s
  | .typeEq w => Sys2Proof.Machine.execTypeEq w s
  -- the CRC unit
  | .crcInit => Sys2Proof.Machine.execCrcInit s
  | .crcByte b => Sys2Proof.Machine.execCrcByte b s
  | .crcTag => Sys2Proof.Machine.execCrcTag s
  | .crcRead => Sys2Proof.Machine.execCrcRead s
  | .crcCheck e => Sys2Proof.Machine.execCrcCheck e s

end Sys2Proof.Machine
end

