-- ==== Sys2Proof/Machine/Cycle.lean ====
section
/-! DEFINITION. One clock cycle (10_state.md R22): what the pins say, and what the block does with it. -/

namespace Sys2Proof.Machine

/-- The three inputs a host can give in a cycle (10_state.md R10, R22). -/
inductive CycleInput where
  | reset
  | idle
  | command (w : CmdWord)
  deriving DecidableEq, Repr

/-- The pins of an idle cycle (42_control.md R96). -/
def idlePins : CycleIn := ⟨false, false, 0x0000000000⟩

/-- The pins of a cycle that presents a command word. -/
def commandPins (w : CmdWord) : CycleIn := ⟨false, true, w⟩

/-- The pins of a reset cycle. -/
def resetPins : CycleIn := ⟨true, false, 0x0000000000⟩

/-- What the pins mean: `rst` has priority over a command, and `cmd` is ignored unless `cmd_valid == 1` and
`rst == 0` (10_state.md R19, R22; 70_reset_and_hazards.md R120). -/
def samplePins (p : CycleIn) : CycleInput :=
  if p.rst then .reset else if p.cmdValid then .command p.cmd else .idle

/-- The pins at the coming rising edge. DESIGN CHOICE (log entry 2): a host that gives no further input leaves
the block idle. -/
def currentPins (s : State) : CycleIn := s.inputs.headD idlePins

/-- The edge is taken: its pins are used up, and the response of the cycle before is not held
(70_reset_and_hazards.md R128). -/
def takeEdge (s : State) : State := { s with inputs := s.inputs.tail, rsp := none }

/-- `Exec(s, w)` (30_encoding.md R50): decode; if illegal, R51; otherwise the rule of the command. -/
def execWord (w : CmdWord) (s : State) : Host.Outcome State Fault Refusal :=
  match decode w with
  | .ok i => exec i s
  | .error _ => illegalCommand s

/-- One cycle (10_state.md R22). -/
def cycle (s : State) : Host.Outcome State Fault Refusal :=
  match samplePins (currentPins s) with
  | .reset => .next (resetState (takeEdge s))
  | .command w => execWord w (takeEdge s)
  | .idle => .next (takeEdge s)

/-- The machine with other pins at the coming edge, and the pins of the later edges as they were. -/
def presentPins (p : CycleIn) (s : State) : State := { s with inputs := p :: s.inputs.tail }

end Sys2Proof.Machine
end

