-- ==== Sys2Proof/Machine/Step.lean ====
section
/-! DEFINITION. The step: one rising edge of `clk` (10_state.md R10, R22). -/

namespace Sys2Proof.Machine

/-- One step: `cycle`. -/
def step (s : State) : Host.Outcome State Fault Refusal := cycle s

/-- The command word presented on the command port at the coming rising edge: the block fetches nothing, the
host supplies each command in the cycle it is to execute (10_state.md R16; log entry 4). -/
def State.withFetchWord (s : State) (nbits w : Nat) : State :=
  presentPins (commandPins (tableWord nbits w)) s

end Sys2Proof.Machine
end

