-- ==== Sys2Proof/Machine/Assembler.lean ====
section
/-! DEFINITION. The assembler level (30_encoding.md R54 to R57): text to tag words, pseudo-commands, the line
notation and its inverse. None of it is hardware; it turns text into commands and back. -/

namespace Sys2Proof.Machine

/-- Why the assembler refuses its input. `typeParseError` is the document's TypeParseError (30_encoding.md R56);
the spec says "refused" of the others without a name (DESIGN CHOICE, log entry 7). -/
inductive AsmError where
  /-- The text of `TYPE_LOADT` or `CRC_CHUNK` is not four characters of code at most 0xFF (R56). -/
  | typeParseError
  /-- The text of `TYPE_EQT` is not four characters of code at most 0xFF (R55). -/
  | notFourBytes
  /-- A character of `CRC_STR` has a code above 0xFF (R55). -/
  | characterTooWide
  /-- A line's mnemonic is none of the ten (R54); a raw command word is none either (log entry 13). -/
  | unknownMnemonic
  /-- A line's operand is missing, superfluous, malformed or too large for its form (R54). -/
  | badOperand
  deriving DecidableEq, Repr

/-- The byte equal to a character's code; none for a code above 0xFF (30_encoding.md R56). -/
def charByte (c : Char) : Option Byte :=
  if c.toNat ≤ 0xFF then some (BitVec.ofNat 8 c.toNat) else none

/-- The bytes of a text; none if a character has no byte. -/
def textBytes : List Char → Option (List Byte)
  | [] => some []
  | c :: cs =>
    match charByte c, textBytes cs with
    | some b, some bs => some (b :: bs)
    | _, _ => none

/-- The word of a text of exactly four characters, the first in bits 31:24 (30_encoding.md R56). -/
def textWord (text : List Char) : Option Word :=
  match textBytes text with
  | some [b0, b1, b2, b3] => some (wordOfBytes b0 b1 b2 b3)
  | _ => none

/-- A byte as its single character (30_encoding.md R57). -/
def byteChar (b : Byte) : Char := Char.ofNat b.toNat

/-- A tag word as four characters, when all four bytes are letters (30_encoding.md R57). -/
def wordText (w : Word) : Option (List Char) :=
  if tagOk w then some ((tagBytes (tagOfWord w)).map byteChar) else none

/-- The pseudo-commands (30_encoding.md R55). -/
inductive Pseudo where
  | typeLoadT (text : List Char)
  | typeEqT (text : List Char)
  | crcBytes (bs : List Byte)
  | crcStr (text : List Char)
  | crcCheckB (t0 t1 t2 t3 : Byte)
  | crcChunk (text : List Char) (bs : List Byte)
  deriving DecidableEq, Repr

/-- The expansion of a pseudo-command: it does not look at responses (30_encoding.md R55). DESIGN CHOICE (log entry
14): a `CRC_CHUNK` whose text R56 refuses is refused whole, so none of its other commands is emitted either. -/
def expand : Pseudo → Except AsmError (List Instr)
  | .typeLoadT text =>
    match textWord text with
    | some w => .ok [.typeLoad w]
    | none => .error .typeParseError
  | .typeEqT text =>
    match textWord text with
    | some w => .ok [.typeEq w]
    | none => .error .notFourBytes
  | .crcBytes bs => .ok (bs.map .crcByte)
  | .crcStr text =>
    match textBytes text with
    | some bs => .ok (bs.map .crcByte)
    | none => .error .characterTooWide
  | .crcCheckB t0 t1 t2 t3 => .ok [.crcCheck (wordOfBytes t0 t1 t2 t3)]
  | .crcChunk text bs =>
    match textWord text with
    | some w => .ok ([.typeLoad w, .crcInit, .crcTag] ++ bs.map .crcByte ++ [.crcRead])
    | none => .error .typeParseError

/-- The hexadecimal digit of a nibble, upper case as the spec writes its examples. -/
def hexDigit (n : BitVec 4) : Char :=
  if n.toNat < 10 then Char.ofNat (0x30 + n.toNat) else Char.ofNat (0x37 + n.toNat)

/-- The nibble whose printed digit a character is; a lower-case letter is read as its upper case (log entry 6). -/
def hexDigitValue (c : Char) : Option Nat :=
  (List.range 16).find? (fun n => hexDigit (BitVec.ofNat 4 n) == c.toUpper)

/-- A decimal digit is one of the ten lowest hexadecimal digits. -/
def decDigitValue (c : Char) : Option Nat :=
  (List.range 10).find? (fun n => hexDigit (BitVec.ofNat 4 n) == c)

/-- The number that digits of a base spell after the digits already read. -/
def digitsValue (base : Nat) (digit : Char → Option Nat) : Nat → List Char → Option Nat
  | acc, [] => some acc
  | acc, c :: cs =>
    match digit c with
    | some d => digitsValue base digit (base * acc + d) cs
    | none => none

/-- An operand of `digits` hexadecimal digits after `0x`, or a decimal number of the same range
(30_encoding.md R54; log entry 6). -/
def operandValue (digits : Nat) : List Char → Option Nat
  | [] => none
  | '0' :: 'x' :: hs => if hs.length = digits then digitsValue 16 hexDigitValue 0 hs else none
  | ds =>
    match digitsValue 10 decDigitValue 0 ds with
    | some n => if n < 16 ^ digits then some n else none
    | none => none

/-- The fields of a line: runs of characters between blanks (log entry 6). -/
def lineFields (line : List Char) : List (List Char) :=
  (line.splitOnP (fun c => c == ' ' || c == '\t')).filter (fun f => !f.isEmpty)

/-- A line without its comment: a `;` starts one (30_encoding.md R54). -/
def dropComment (line : List Char) : List Char := line.takeWhile (fun c => c != ';')

/-- A mnemonic with the operand its form needs (30_encoding.md R47, R54). -/
inductive Mnemonic where
  | plain (i : Instr)
  | byte (command : Byte → Instr)
  | word (command : Word → Instr)

/-- The mnemonic of a command, upper case (30_encoding.md R49, R54). -/
def mnemonicOf : Instr → List Char
  | .nop => ['N', 'O', 'P']
  | .typeLoad _ => ['T', 'Y', 'P', 'E', '_', 'L', 'O', 'A', 'D']
  | .typeRead => ['T', 'Y', 'P', 'E', '_', 'R', 'E', 'A', 'D']
  | .typeProps => ['T', 'Y', 'P', 'E', '_', 'P', 'R', 'O', 'P', 'S']
  | .typeEq _ => ['T', 'Y', 'P', 'E', '_', 'E', 'Q']
  | .crcInit => ['C', 'R', 'C', '_', 'I', 'N', 'I', 'T']
  | .crcByte _ => ['C', 'R', 'C', '_', 'B', 'Y', 'T', 'E']
  | .crcTag => ['C', 'R', 'C', '_', 'T', 'A', 'G']
  | .crcRead => ['C', 'R', 'C', '_', 'R', 'E', 'A', 'D']
  | .crcCheck _ => ['C', 'R', 'C', '_', 'C', 'H', 'E', 'C', 'K']

/-- The ten mnemonics, each with the operand form of its row (30_encoding.md R49, R54). -/
def mnemonics : List (List Char × Mnemonic) :=
  [ (mnemonicOf .nop, .plain .nop),
    (mnemonicOf (.typeLoad 0), .word .typeLoad),
    (mnemonicOf .typeRead, .plain .typeRead),
    (mnemonicOf .typeProps, .plain .typeProps),
    (mnemonicOf (.typeEq 0), .word .typeEq),
    (mnemonicOf .crcInit, .plain .crcInit),
    (mnemonicOf (.crcByte 0), .byte .crcByte),
    (mnemonicOf .crcTag, .plain .crcTag),
    (mnemonicOf .crcRead, .plain .crcRead),
    (mnemonicOf (.crcCheck 0), .word .crcCheck) ]

/-- The command of a mnemonic and the operand fields that follow it (30_encoding.md R54). -/
def assembleFields : Mnemonic → List (List Char) → Except AsmError Instr
  | .plain i, [] => .ok i
  | .byte command, [o] =>
    match operandValue 2 o with
    | some n => .ok (command (BitVec.ofNat 8 n))
    | none => .error .badOperand
  | .word command, [o] =>
    match operandValue 8 o with
    | some n => .ok (command (BitVec.ofNat 32 n))
    | none => .error .badOperand
  | _, _ => .error .badOperand

/-- One line of the notation: a command (30_encoding.md R54). DESIGN CHOICE (log entry 6): a blank line, and a line
that is only a comment, is accepted and yields no command. DESIGN CHOICE (log entry 13): a raw command word in place of a mnemonic, as three lines of 95_test_vectors.md P3 have it,
is no line of R54's notation and is refused as an unknown mnemonic. -/
def assembleLine (line : List Char) : Except AsmError (Option Instr) :=
  match lineFields (dropComment line) with
  | [] => .ok none
  | m :: ops =>
    match mnemonics.lookup m with
    | some shape =>
      match assembleFields shape ops with
      | .ok i => .ok (some i)
      | .error e => .error e
    | none => .error .unknownMnemonic

/-- A byte as `0x` and two hexadecimal digits (30_encoding.md R54). -/
def byteHex (b : Byte) : List Char :=
  ['0', 'x', hexDigit (b.extractLsb' 4 4), hexDigit (b.extractLsb' 0 4)]

/-- A word as `0x` and eight hexadecimal digits (30_encoding.md R54). -/
def wordHex (w : Word) : List Char :=
  ['0', 'x', hexDigit (w.extractLsb' 28 4), hexDigit (w.extractLsb' 24 4), hexDigit (w.extractLsb' 20 4),
    hexDigit (w.extractLsb' 16 4), hexDigit (w.extractLsb' 12 4), hexDigit (w.extractLsb' 8 4),
    hexDigit (w.extractLsb' 4 4), hexDigit (w.extractLsb' 0 4)]

/-- The operand of a command as text, after a blank; nothing for a command without operand. -/
def operandText : Instr → List Char
  | .nop => []
  | .typeLoad w => ' ' :: wordHex w
  | .typeRead => []
  | .typeProps => []
  | .typeEq w => ' ' :: wordHex w
  | .crcInit => []
  | .crcByte b => ' ' :: byteHex b
  | .crcTag => []
  | .crcRead => []
  | .crcCheck e => ' ' :: wordHex e

/-- A command as a line of the notation (30_encoding.md R54). -/
def commandLine (i : Instr) : List Char := mnemonicOf i ++ operandText i

end Sys2Proof.Machine
end

