-- ==== Sys2Proof/Machine/Sequence.lean ====
section
/-! DEFINITION. Sequences: commands one after another (20_memory.md R42), clock cycles one after another, and the
responses a host sees (60_exceptions.md R100). -/

namespace Sys2Proof.Machine

/-- The commands of a list in order, each in the state the one before left (20_memory.md R42). -/
def execAll : List Instr → State → Host.Outcome State Fault Refusal
  | [], s => .next s
  | i :: is, s =>
    match exec i s with
    | .next t => execAll is t
    | .fault r => .fault r
    | .refused r => .refused r

/-- `n` clock cycles. -/
def runCycles : Nat → State → Host.Outcome State Fault Refusal
  | 0, s => .next s
  | n + 1, s =>
    match step s with
    | .next t => runCycles n t
    | .fault r => .fault r
    | .refused r => .refused r

/-- The responses given in the next `n` cycles, in order (one in every cycle in which `rsp_valid` is 1). -/
def responses : Nat → State → List Response
  | 0, _ => []
  | n + 1, s =>
    match step s with
    | .next t => t.rsp.toList ++ responses n t
    | .fault _ => []
    | .refused _ => []

/-- The machine with the given pins at the rising edges to come. -/
def withInputs (ps : List CycleIn) (s : State) : State := { s with inputs := ps }

/-- The construct-path commands of one chunk with tag word `w` and payload `d` (41_crc.md R81). -/
def chunkCommands (w : Word) (d : List Byte) : List Instr :=
  [.typeLoad w, .crcInit, .crcTag] ++ d.map .crcByte

end Sys2Proof.Machine
end

