-- ==== Sys2Proof/Machine/Stream.lean ====
section
/-! DEFINITION. The message a command sequence feeds to the CRC unit, however it is cut into commands and whatever
other commands stand between (41_crc.md R89, law 1). -/

namespace Sys2Proof.Machine

/-- The bytes a command absorbs: `CRC_BYTE` its byte, `CRC_TAG` the tag held at the moment it executes, every other
command none (41_crc.md R83, R84 and R89, law 5). `CRC_INIT` absorbs nothing: it starts a new message. -/
def absorbedBy (b : Block) : Instr → List Byte
  | .nop => []
  | .typeLoad _ => []
  | .typeRead => []
  | .typeProps => []
  | .typeEq _ => []
  | .crcInit => []
  | .crcByte m => [m]
  | .crcTag => if b.tagValid then tagBytes b.tag else []
  | .crcRead => []
  | .crcCheck _ => []

/-- The bytes the commands of a list absorb in order, each in the state the one before left. -/
def absorbedByAll : List Instr → State → List Byte
  | [], _ => []
  | i :: is, s =>
    match exec i s with
    | .next t => absorbedBy s.block i ++ absorbedByAll is t
    | .fault _ => []
    | .refused _ => []

end Sys2Proof.Machine
end

