-- ==== Sys2Proof/Machine/Ports.lean ====
section
/-! DEFINITION. The output ports of a cycle (10_state.md R20, R21), as functions of the state before its rising
edge and of that cycle's pins. They are derived, not state (R26). -/

namespace Sys2Proof.Machine

/-- The nine output ports (10_state.md R20). -/
structure Ports where
  rspValid           : Bool
  rsp                : RspWord
  crcOut             : Word
  tagOut             : Word
  tagValid           : Bool
  isCritical         : Bool
  isPublic           : Bool
  isReservedBitValid : Bool
  isSafeToCopy       : Bool
  deriving DecidableEq, Repr

/-- `rsp_valid = cmd_valid & ~rst` (10_state.md R20). -/
def rspValidPort (s : State) : Bool := (currentPins s).cmdValid && !(currentPins s).rst

/-- The response given in this cycle, combinational: that of the step about to be taken (10_state.md R20, R22). -/
def responseNow (s : State) : Option Response :=
  match step s with
  | .next t => t.rsp
  | .fault _ => none
  | .refused _ => none

/-- `rsp`: the response word, all zeros when `rsp_valid == 0` (10_state.md R20). -/
def rspPort (s : State) : RspWord :=
  if rspValidPort s then
    match responseNow s with
    | some r => responseWord r
    | none => 0
  else 0

/-- All output ports in the cycle that ends at the coming rising edge; the four property lines are gated by
`tag_valid` (10_state.md R21). -/
def ports (s : State) : Ports :=
  { rspValid           := rspValidPort s
    rsp                := rspPort s
    crcOut             := crcOut s.block.crc
    tagOut             := tagWord s.block.tag
    tagValid           := s.block.tagValid
    isCritical         := s.block.tagValid && isCritical s.block.tag
    isPublic           := s.block.tagValid && isPublic s.block.tag
    isReservedBitValid := s.block.tagValid && isReservedBitValid s.block.tag
    isSafeToCopy       := s.block.tagValid && isSafeToCopy s.block.tag }

end Sys2Proof.Machine
end

