-- ==== Sys2Proof/Safety.lean ====
section
/-! DEFINITION. The terms that claims use: what the pins say at the coming edge (10_state.md R22), the groups of
commands the spec names, the state invariant (R15), and a run that never stops (60_exceptions.md R114). -/

namespace Sys2Proof.Safety

open Sys2Proof.Machine

/-- The coming edge resets the block, whatever `cmd_valid` and `cmd` carry (10_state.md R22). -/
def ResetNow (s : State) : Prop := (currentPins s).rst = true

/-- At the coming edge the block accepts the command word `w` (10_state.md R19, R22). -/
def AcceptsNow (s : State) (w : CmdWord) : Prop :=
  (currentPins s).rst = false ∧ (currentPins s).cmdValid = true ∧ (currentPins s).cmd = w

/-- The coming edge is idle, whatever `cmd` carries (42_control.md R96). -/
def IdleNow (s : State) : Prop := (currentPins s).rst = false ∧ (currentPins s).cmdValid = false

/-- The four tag-dependent commands (60_exceptions.md R104). -/
def NeedsTag (i : Instr) : Prop :=
  i = .typeRead ∨ i = .typeProps ∨ (∃ w, i = .typeEq w) ∨ i = .crcTag

/-- The six commands that write no state (20_memory.md R40). -/
def WritesNothing (i : Instr) : Prop :=
  i = .nop ∨ i = .typeRead ∨ i = .typeProps ∨ (∃ w, i = .typeEq w) ∨ i = .crcRead ∨ ∃ e, i = .crcCheck e

/-- The commands of the ChunkType unit (30_encoding.md R49, opcodes 0x1_). -/
def OfChunkTypeUnit (i : Instr) : Prop :=
  (∃ w, i = .typeLoad w) ∨ i = .typeRead ∨ i = .typeProps ∨ ∃ w, i = .typeEq w

/-- The commands of the CRC unit (30_encoding.md R49, opcodes 0x2_). -/
def OfCrcUnit (i : Instr) : Prop :=
  i = .crcInit ∨ (∃ b, i = .crcByte b) ∨ i = .crcTag ∨ i = .crcRead ∨ ∃ e, i = .crcCheck e

/-- The state invariant (10_state.md R15): a valid tag is four letters, no tag is four zero bytes. -/
def BlockInv (b : Block) : Prop :=
  (b.tagValid = true →
    isLetter b.tag.b0 = true ∧ isLetter b.tag.b1 = true ∧ isLetter b.tag.b2 = true ∧ isLetter b.tag.b3 = true) ∧
  (b.tagValid = false →
    b.tag.b0 = 0x00 ∧ b.tag.b1 = 0x00 ∧ b.tag.b2 = 0x00 ∧ b.tag.b3 = 0x00)

/-- A state is safe when its block meets the invariant. -/
def Safe (s : State) : Prop := BlockInv s.block

/-- From `s` no number of cycles stops the machine (60_exceptions.md R114). -/
def NeverStops (s : State) : Prop := ∀ n, ∃ t, runCycles n s = .next t

end Sys2Proof.Safety
end

