-- ==== Sys2Proof/Certificates/Slice0/Obligations.lean ====
section
/-! DEFINITION. The statements about PNGME-CRC32, one definition each, from the numbered rules of spec/. A
statement marked "derived" rests on an inference the spec marks as its own, or on a choice of the model. Where a
statement writes a whole state, `inputs` and `rsp` stand for the `Input` and the `Option Response` of 10_state.md
R22 (log entries 1 and 3). -/

open Sys2Proof Sys2Proof.Machine Sys2Proof.Safety

/-! ### Reset and the cycle -/

/-- 10_state.md R23: every state item after a reset cycle and in `State.reset`, and the ports that follow. -/
def Obligations.ResetStateValues : Prop :=
  State.reset.block = { crc := 0xFFFFFFFF, tag := ⟨0x00, 0x00, 0x00, 0x00⟩, tagValid := false } ∧
  (∀ s, ResetNow s → ∃ t, step s = .next t ∧
    t.block = { crc := 0xFFFFFFFF, tag := ⟨0x00, 0x00, 0x00, 0x00⟩, tagValid := false }) ∧
  (∀ s, s.block = State.reset.block →
    (ports s).crcOut = 0x00000000 ∧ (ports s).tagOut = 0x00000000 ∧ (ports s).tagValid = false ∧
    (ports s).isCritical = false ∧ (ports s).isPublic = false ∧
    (ports s).isReservedBitValid = false ∧ (ports s).isSafeToCopy = false)

/-- 70_reset_and_hazards.md R120: a reset cycle leads to `ResetState` from any state and with any command on the
port; the command is dropped without a response; one reset cycle is enough and more keep the state. -/
def Obligations.ResetWinsFromAnyState : Prop :=
  (∀ s, ResetNow s →
    step s = .next
      { block := { crc := 0xFFFFFFFF, tag := ⟨0x00, 0x00, 0x00, 0x00⟩, tagValid := false }
        inputs := s.inputs.tail, rsp := none } ∧
    (ports s).rspValid = false ∧ (ports s).rsp = 0) ∧
  (∀ s ps rest, ps ≠ [] → (∀ p ∈ ps, p.rst = true) →
    runCycles ps.length (withInputs (ps ++ rest) s) =
      .next { block := State.reset.block, inputs := rest, rsp := none })

/-- derived (10_state.md section 4, 30_encoding.md section 2; the step's form is log entry 1, `withFetchWord` is
log entry 4): a cycle that accepts a word which decodes to `i` is `exec i`, the edge's pins used up and no earlier
response held; a word put on the port by `withFetchWord` is what the next step runs. -/
def Obligations.StepRunsDecodedCommand : Prop :=
  (∀ s w i, AcceptsNow s w → decode w = .ok i →
    step s = exec i { block := s.block, inputs := s.inputs.tail, rsp := none }) ∧
  (∀ (s : State) nbits w i, decodeTableWord nbits w = some i →
    step (s.withFetchWord nbits w) = exec i { block := s.block, inputs := s.inputs.tail, rsp := none })

/-- 10_state.md R22: reset first, then a command, otherwise nothing changes; the response stands on the port in the
command's cycle; every word in every state has a next
state and a response. -/
def Obligations.CycleIsResetCommandOrIdle : Prop :=
  (∀ s, ResetNow s → ∃ t, step s = .next t ∧ t.block = State.reset.block ∧ t.rsp = none ∧
    (ports s).rspValid = false) ∧
  (∀ s w, AcceptsNow s w →
    step s = execWord w { block := s.block, inputs := s.inputs.tail, rsp := none } ∧
    (ports s).rspValid = true ∧
    ∃ t r, step s = .next t ∧ t.rsp = some r ∧ (ports s).rsp = statusCode r.status ++ r.result) ∧
  (∀ s, IdleNow s → ∃ t, step s = .next t ∧ t.block = s.block ∧ t.rsp = none ∧
    (ports s).rspValid = false) ∧
  (∀ s, ResetNow s ∨ (∃ w, AcceptsNow s w) ∨ IdleNow s) ∧
  (∀ s w, ∃ t r, execWord w s = .next t ∧ t.rsp = some r)

/-- 42_control.md R96: an idle cycle changes nothing and gives no response, whatever `cmd` carries; leaving every
idle cycle out of a sequence changes neither the block at the end nor the responses given. -/
def Obligations.IdleCyclesDoNotMatter : Prop :=
  (∀ s, IdleNow s →
    step s = .next { block := s.block, inputs := s.inputs.tail, rsp := none } ∧
    (ports s).rspValid = false ∧ (ports s).rsp = 0) ∧
  (∀ s ps qs, qs = ps.filter (fun p => p.rst || p.cmdValid) →
    ∃ t u, runCycles ps.length (withInputs ps s) = .next t ∧
      runCycles qs.length (withInputs qs s) = .next u ∧ t.block = u.block ∧
      responses ps.length (withInputs ps s) = responses qs.length (withInputs qs s))

/-- 60_exceptions.md R114: from every state every word completes with a next state and a response, and no run of
any length stops. -/
def Obligations.NothingHangs : Prop :=
  (∀ s w, AcceptsNow s w → ∃ t r, step s = .next t ∧ t.rsp = some r) ∧ ∀ s, NeverStops s

/-- 60_exceptions.md R115: the block and the pins of the cycle alone fix the next block and the response, and the
pins of a cycle are used once. -/
def Obligations.SameCommandSameResult : Prop :=
  ∀ s s', s.block = s'.block → currentPins s = currentPins s' →
    ∃ t t', step s = .next t ∧ step s' = .next t' ∧ t.block = t'.block ∧ t.rsp = t'.rsp ∧
      t.inputs = s.inputs.tail ∧ t'.inputs = s'.inputs.tail

/-- 20_memory.md R42: commands given in consecutive cycles as their words act one after another, each on the
state the one before left. -/
def Obligations.CommandsTakeEffectInCycleOrder : Prop :=
  ∀ (is : List Instr) s rest, ∃ t u, execAll is s = .next t ∧
    runCycles is.length (withInputs (is.map (fun i => commandPins (encode i)) ++ rest) s) = .next u ∧
    u.block = t.block ∧ u.inputs = rest ∧ (is ≠ [] → u.rsp = t.rsp)

/-! ### State and ports -/

/-- derived (10_state.md section 2): the block's state is 65 bits, no more and no less. -/
def Obligations.BlockStateIs65Bits : Prop :=
  (∀ b, unpackBlock (packBlock b) = b) ∧ (∀ v, packBlock (unpackBlock v) = v)

/-- 10_state.md R15: the invariant holds after reset and every cycle keeps it. -/
def Obligations.StateInvariantKept : Prop :=
  Safe State.reset ∧ (∀ s, ResetNow s → ∃ t, step s = .next t ∧ Safe t) ∧
  ∀ s, Safe s → ∃ t, step s = .next t ∧ Safe t

/-- derived (10_state.md section 2): the reset state meets the invariant. -/
def Obligations.ResetMeetsInvariant : Prop :=
  Safe State.reset

/-- 10_state.md R14: `tag_valid` is set by a `TYPE_LOAD` of four letters, cleared by any other `TYPE_LOAD` and by
reset, and changed by nothing else. -/
def Obligations.TagValidWrittenByTypeLoadAndReset : Prop :=
  ∀ s, ∃ t, step s = .next t ∧
    (ResetNow s → t.block.tagValid = false) ∧
    (∀ w x, AcceptsNow s w → decode w = .ok (.typeLoad x) → t.block.tagValid = tagOk x) ∧
    (¬ ResetNow s → (∀ w x, AcceptsNow s w → decode w ≠ .ok (.typeLoad x)) →
      t.block.tagValid = s.block.tagValid)

/-- derived (10_state.md section 2, the table's column "Written by"): in one cycle `crc` changes only by
`CRC_INIT`, `CRC_BYTE`, `CRC_TAG` or reset, the tag registers and the flag only by `TYPE_LOAD` or reset, and an
illegal word changes nothing. -/
def Obligations.OnlyNamedCommandsWriteState : Prop :=
  ∀ s w, AcceptsNow s w → ∃ t, step s = .next t ∧
    (t.block.crc ≠ s.block.crc →
      decode w = .ok .crcInit ∨ (∃ b, decode w = .ok (.crcByte b)) ∨ decode w = .ok .crcTag) ∧
    (t.block.tag ≠ s.block.tag ∨ t.block.tagValid ≠ s.block.tagValid →
      ∃ x, decode w = .ok (.typeLoad x))

/-- 10_state.md R21: the state-derived ports, bit for bit, and what they mean under the invariant. -/
def Obligations.PortsFromState : Prop :=
  (∀ s, (ports s).crcOut = s.block.crc ^^^ 0xFFFFFFFF ∧
    (ports s).tagOut = s.block.tag.b0 ++ s.block.tag.b1 ++ s.block.tag.b2 ++ s.block.tag.b3 ∧
    (ports s).tagValid = s.block.tagValid ∧
    (ports s).isCritical = (s.block.tagValid && !s.block.tag.b0.getLsbD 5) ∧
    (ports s).isPublic = (s.block.tagValid && !s.block.tag.b1.getLsbD 5) ∧
    (ports s).isReservedBitValid = (s.block.tagValid && !s.block.tag.b2.getLsbD 5) ∧
    (ports s).isSafeToCopy = (s.block.tagValid && s.block.tag.b3.getLsbD 5)) ∧
  (∀ s, Safe s → s.block.tagValid = true →
    (ports s).isCritical = isUpper s.block.tag.b0 ∧ (ports s).isPublic = isUpper s.block.tag.b1 ∧
    (ports s).isReservedBitValid = isUpper s.block.tag.b2 ∧ (ports s).isSafeToCopy = isLower s.block.tag.b3) ∧
  (∀ s, Safe s → s.block.tagValid = false →
    (ports s).isCritical = false ∧ (ports s).isPublic = false ∧ (ports s).isReservedBitValid = false ∧
    (ports s).isSafeToCopy = false ∧ (ports s).tagOut = 0x00000000)

/-- 10_state.md R20: `rsp_valid` is 1 in exactly the cycles in which a command is accepted, and then `rsp` is the
status and result of that command; otherwise it is all zeros. The other ports are functions of the state alone. -/
def Obligations.ResponsePorts : Prop :=
  (∀ s, (ports s).rspValid = ((currentPins s).cmdValid && !(currentPins s).rst)) ∧
  (∀ s, (ports s).rspValid = true ↔ ∃ w, AcceptsNow s w) ∧
  (∀ s w, AcceptsNow s w → ∃ t r, step s = .next t ∧ t.rsp = some r ∧
    (ports s).rsp = statusCode r.status ++ r.result) ∧
  (∀ s, (ports s).rspValid = false → (ports s).rsp = 0 ∧ ∃ t, step s = .next t ∧ t.rsp = none) ∧
  (∀ s, (ports s).crcOut = s.block.crc ^^^ 0xFFFFFFFF ∧
    (ports s).tagOut = s.block.tag.b0 ++ s.block.tag.b1 ++ s.block.tag.b2 ++ s.block.tag.b3 ∧
    (ports s).tagValid = s.block.tagValid) ∧
  (∀ s s', s.block = s'.block →
    (ports s).isCritical = (ports s').isCritical ∧ (ports s).isPublic = (ports s').isPublic ∧
    (ports s).isReservedBitValid = (ports s').isReservedBitValid ∧
    (ports s).isSafeToCopy = (ports s').isSafeToCopy)

/-- 70_reset_and_hazards.md R128: the response stands in the command's own cycle and is not held, and the
state-derived ports show the effect from the next cycle; so `crc_out` in the cycle of a `CRC_BYTE` is without that
byte, and its result includes it. -/
def Obligations.ResponseNowPortsNextCycle : Prop :=
  (∀ s, ∃ t, step s = .next t ∧ (IdleNow t → (ports t).rspValid = false ∧ (ports t).rsp = 0) ∧
    (∀ t', t'.block = t.block →
      (ports t').crcOut = (ports t).crcOut ∧ (ports t').tagOut = (ports t).tagOut ∧
      (ports t').tagValid = (ports t).tagValid ∧ (ports t').isCritical = (ports t).isCritical ∧
      (ports t').isPublic = (ports t).isPublic ∧ (ports t').isReservedBitValid = (ports t).isReservedBitValid ∧
      (ports t').isSafeToCopy = (ports t).isSafeToCopy)) ∧
  (∀ s b, AcceptsNow s (encode (.crcByte b)) → ∃ t, step s = .next t ∧
    (ports s).crcOut = crcOut s.block.crc ∧
    (ports s).rsp = 0x0#4 ++ crcOut (crcUpdate s.block.crc b) ∧
    (ports t).crcOut = crcOut (crcUpdate s.block.crc b))

/-! ### Encoding -/

/-- derived (30_encoding.md section 2, the words of 95_test_vectors.md): words written out from the encoding
strings decode to the commands they stand for, and two illegal words are illegal; that the decoder gives an illegal
word one of two names is the model's choice (log entry 12), the spec has the one result `illegal`. -/
def Obligations.WrittenOutWordsDecode : Prop :=
  decode 0b0000000000000000000000000000000000000000 = .ok .nop ∧
  decode 0b0001000001010010011101010101001101110100 = .ok (.typeLoad 0x52755374) ∧
  decode 0b0001001100000000000000000000000000000000 = .ok (.typeEq 0x00000000) ∧
  decode 0b0010000100000000000000000000000000110001 = .ok (.crcByte 0x31) ∧
  decode 0b0010010010101110010000100110000010000010 = .ok (.crcCheck 0xAE426082) ∧
  decode 0x2000000001 = .error (.strayOperandBits 0x20) ∧
  decode 0x7F00000000 = .error (.undefinedOpcode 0x7F)

/-- 30_encoding.md R49, R50: a word is a row's command exactly when `w & mask == match`, row by row, its operand
the word's bits 31:0 or 7:0; a word that matches no row is illegal; `Exec` runs the decoded command. -/
def Obligations.DecodeFollowsOpcodeMap : Prop :=
  (∀ w : CmdWord, decode w = .ok .nop ↔ w &&& 0xFFFFFFFFFF = 0x0000000000) ∧
  (∀ (w : CmdWord) x, decode w = .ok (.typeLoad x) ↔
    w &&& 0xFF00000000 = 0x1000000000 ∧ x = w.extractLsb' 0 32) ∧
  (∀ w : CmdWord, decode w = .ok .typeRead ↔ w &&& 0xFFFFFFFFFF = 0x1100000000) ∧
  (∀ w : CmdWord, decode w = .ok .typeProps ↔ w &&& 0xFFFFFFFFFF = 0x1200000000) ∧
  (∀ (w : CmdWord) x, decode w = .ok (.typeEq x) ↔
    w &&& 0xFF00000000 = 0x1300000000 ∧ x = w.extractLsb' 0 32) ∧
  (∀ w : CmdWord, decode w = .ok .crcInit ↔ w &&& 0xFFFFFFFFFF = 0x2000000000) ∧
  (∀ (w : CmdWord) b, decode w = .ok (.crcByte b) ↔
    w &&& 0xFFFFFFFF00 = 0x2100000000 ∧ b = w.extractLsb' 0 8) ∧
  (∀ w : CmdWord, decode w = .ok .crcTag ↔ w &&& 0xFFFFFFFFFF = 0x2200000000) ∧
  (∀ w : CmdWord, decode w = .ok .crcRead ↔ w &&& 0xFFFFFFFFFF = 0x2300000000) ∧
  (∀ (w : CmdWord) e, decode w = .ok (.crcCheck e) ↔
    w &&& 0xFF00000000 = 0x2400000000 ∧ e = w.extractLsb' 0 32) ∧
  (∀ w : CmdWord, (∃ e, decode w = .error e) ↔
    w &&& 0xFFFFFFFFFF ∉ [0x0000000000#40, 0x1100000000, 0x1200000000, 0x2000000000, 0x2200000000, 0x2300000000] ∧
    w &&& 0xFF00000000 ∉ [0x1000000000#40, 0x1300000000, 0x2400000000] ∧
    w &&& 0xFFFFFFFF00 ≠ 0x2100000000) ∧
  (∀ s w i, decode w = .ok i → execWord w s = exec i s) ∧
  (∀ s w e, decode w = .error e → execWord w s = .next { s with rsp := some ⟨.illegalCmd, 0x00000000⟩ })

/-- derived (30_encoding.md section 2): decoding the word of any well-formed command gives the command, with every
operand. -/
def Obligations.DecodeOfEncode : Prop :=
  ∀ i, wellFormed i = true → decode (encode i) = .ok i

/-- derived (30_encoding.md section 3, "no encoding that executes as another command"): a word that decodes is the
word of the command it decodes to, and that command is well formed. -/
def Obligations.EncodeOfDecode : Prop :=
  ∀ w i, decode w = .ok i → encode i = w ∧ wellFormed i = true

/-- 30_encoding.md R51 and 60_exceptions.md R105: which words are illegal, and that an illegal word changes no
state and is answered `ILLEGAL_CMD`, 0. -/
def Obligations.IllegalWordsAnswered : Prop :=
  (∀ (o : Opcode) (x : Word), (∃ e, decode (o ++ x) = .error e) ↔
    o ∉ [0x00#8, 0x10, 0x11, 0x12, 0x13, 0x20, 0x21, 0x22, 0x23, 0x24] ∨
    (o ∈ [0x00#8, 0x11, 0x12, 0x20, 0x22, 0x23] ∧ x ≠ 0) ∨
    (o = 0x21 ∧ x &&& 0xFFFFFF00 ≠ 0)) ∧
  (∀ s w e, decode w = .error e →
    execWord w s = .next { s with rsp := some ⟨.illegalCmd, 0x00000000⟩ }) ∧
  (∀ s w e, AcceptsNow s w → decode w = .error e →
    step s = .next { block := s.block, inputs := s.inputs.tail, rsp := some ⟨.illegalCmd, 0x00000000⟩ }) ∧
  (∀ w ∈ [0x7F00000000#40, 0x2000000001, 0x2100000131, 0xFFFFFFFFFF], ∃ e, decode w = .error e) ∧
  decode 0x0000000000 = .ok .nop

/-- 30_encoding.md R46: status in bits 35:32, result in bits 31:0, the five codes, and result 0 with
`TYPE_PARSE_ERROR`, `NO_TAG` and `ILLEGAL_CMD`. -/
def Obligations.ResponseWordLayout : Prop :=
  (∀ r, (responseWord r).extractLsb' 32 4 = statusCode r.status ∧ (responseWord r).extractLsb' 0 32 = r.result) ∧
  (statusCode .ok = 0x0 ∧ statusCode .typeParseError = 0x1 ∧ statusCode .crcMismatch = 0x2 ∧
    statusCode .noTag = 0x3 ∧ statusCode .illegalCmd = 0x4) ∧
  (∀ st, statusCode st < 0x5) ∧
  (∀ s w, AcceptsNow s w → (ports s).rspValid = true ∧ ∃ r, (ports s).rsp = responseWord r) ∧
  (∀ s w, ∃ t r, execWord w s = .next t ∧ t.rsp = some r ∧
    (r.status = .typeParseError ∨ r.status = .noTag ∨ r.status = .illegalCmd → r.result = 0x00000000))

/-! ### The commands -/

/-- 42_control.md R95. -/
def Obligations.NopDoesNothing : Prop :=
  encode .nop = 0x0000000000 ∧
  (∀ s, exec .nop s = .next { s with rsp := some ⟨.ok, 0x00000000⟩ }) ∧
  (∀ x : Word, x ≠ 0 → ∃ e, decode (0x00#8 ++ x) = .error e)

/-- 40_chunktype.md R64: a load of four letters writes the tag and answers its properties; any other load clears
the tag and answers `TYPE_PARSE_ERROR`; `crc` is not touched. -/
def Obligations.TypeLoadConstructsOrClears : Prop :=
  (∀ w, encode (.typeLoad w) = 0x10#8 ++ w) ∧
  (∀ w s, isLetter (w.extractLsb' 24 8) = true → isLetter (w.extractLsb' 16 8) = true →
    isLetter (w.extractLsb' 8 8) = true → isLetter (w.extractLsb' 0 8) = true →
    exec (.typeLoad w) s = .next
      { s with
        block := { crc := s.block.crc
                   tag := ⟨w.extractLsb' 24 8, w.extractLsb' 16 8, w.extractLsb' 8 8, w.extractLsb' 0 8⟩
                   tagValid := true }
        rsp := some ⟨.ok, (props w).setWidth 32⟩ }) ∧
  (∀ w s, ¬ (isLetter (w.extractLsb' 24 8) = true ∧ isLetter (w.extractLsb' 16 8) = true ∧
      isLetter (w.extractLsb' 8 8) = true ∧ isLetter (w.extractLsb' 0 8) = true) →
    exec (.typeLoad w) s = .next
      { s with
        block := { crc := s.block.crc, tag := ⟨0x00, 0x00, 0x00, 0x00⟩, tagValid := false }
        rsp := some ⟨.typeParseError, 0x00000000⟩ })

/-- 40_chunktype.md R65; the port `tag_out` carries the same value. -/
def Obligations.TypeReadReturnsTagBytes : Prop :=
  encode .typeRead = 0x1100000000 ∧
  (∀ s, s.block.tagValid = true →
    exec .typeRead s = .next
      { s with rsp := some ⟨.ok, s.block.tag.b0 ++ s.block.tag.b1 ++ s.block.tag.b2 ++ s.block.tag.b3⟩ } ∧
    (ports s).tagOut = s.block.tag.b0 ++ s.block.tag.b1 ++ s.block.tag.b2 ++ s.block.tag.b3) ∧
  (∀ s, s.block.tagValid = false →
    exec .typeRead s = .next { s with rsp := some ⟨.noTag, 0x00000000⟩ } ∧
    (Safe s → (ports s).tagOut = 0x00000000))

/-- 40_chunktype.md R66: the four properties in bits 3:0, the rest 0; the four lines carry the same bits; all 16
values occur. -/
def Obligations.TypePropsReturnsProperties : Prop :=
  encode .typeProps = 0x1200000000 ∧
  (∀ s, s.block.tagValid = true → ∃ r : Word,
    exec .typeProps s = .next { s with rsp := some ⟨.ok, r⟩ } ∧
    r = (props (tagWord s.block.tag)).setWidth 32 ∧ r.extractLsb' 4 28 = 0 ∧
    r.getLsbD 0 = (ports s).isCritical ∧ r.getLsbD 1 = (ports s).isPublic ∧
    r.getLsbD 2 = (ports s).isReservedBitValid ∧ r.getLsbD 3 = (ports s).isSafeToCopy) ∧
  (∀ s, s.block.tagValid = false →
    exec .typeProps s = .next { s with rsp := some ⟨.noTag, 0x00000000⟩ }) ∧
  (∀ p : BitVec 4, ∃ w, tagOk w = true ∧ props w = p)

/-- 40_chunktype.md R67: equality of the four bytes; an operand that is no tag is unequal to every held tag. -/
def Obligations.TypeEqComparesFourBytes : Prop :=
  (∀ w, encode (.typeEq w) = 0x13#8 ++ w) ∧
  (∀ s w, s.block.tagValid = true → w = tagWord s.block.tag →
    exec (.typeEq w) s = .next { s with rsp := some ⟨.ok, 0x00000001⟩ }) ∧
  (∀ s w, s.block.tagValid = true → w ≠ tagWord s.block.tag →
    exec (.typeEq w) s = .next { s with rsp := some ⟨.ok, 0x00000000⟩ }) ∧
  (∀ s w, s.block.tagValid = false →
    exec (.typeEq w) s = .next { s with rsp := some ⟨.noTag, 0x00000000⟩ }) ∧
  (∀ s w, Safe s → s.block.tagValid = true → tagOk w = false →
    exec (.typeEq w) s = .next { s with rsp := some ⟨.ok, 0x00000000⟩ })

/-- 41_crc.md R82; idempotent, and redundant in the reset state but for its response. -/
def Obligations.CrcInitStartsMessage : Prop :=
  encode .crcInit = 0x2000000000 ∧
  (∀ s, exec .crcInit s = .next
    { s with block := { s.block with crc := 0xFFFFFFFF }, rsp := some ⟨.ok, 0x00000000⟩ }) ∧
  (∀ s, execAll [.crcInit, .crcInit] s = execAll [.crcInit] s) ∧
  (∀ s, s.block = State.reset.block → exec .crcInit s = .next { s with rsp := some ⟨.ok, 0x00000000⟩ }) ∧
  (∀ s, ∃ t, exec .crcInit s = .next t ∧ (ports t).crcOut = 0x00000000)

/-- 41_crc.md R83: every byte is absorbed and the checksum so far answered; `CrcUpdate` depends on the byte only
through `c[7:0] ^ b`; a zero byte is no no-op but on the all-zero register. -/
def Obligations.CrcByteAbsorbsByte : Prop :=
  (∀ b : Byte, encode (.crcByte b) = 0x21#8 ++ b.setWidth 32) ∧
  (∀ s b, exec (.crcByte b) s = .next
    { s with
      block := { s.block with crc := crcUpdate s.block.crc b }
      rsp := some ⟨.ok, crcUpdate s.block.crc b ^^^ 0xFFFFFFFF⟩ }) ∧
  (∀ c b c' b', c.extractLsb' 8 24 = c'.extractLsb' 8 24 →
    c.extractLsb' 0 8 ^^^ b = c'.extractLsb' 0 8 ^^^ b' → crcUpdate c b = crcUpdate c' b') ∧
  crcUpdate 0xFFFFFFFF 0x00 = 0x2DFD1072 ∧ crcUpdate 0x00000000 0x00 = 0x00000000 ∧
  crcBytes 0xFFFFFFFF [0xFF, 0xFF, 0xFF, 0xFF] = 0x00000000 ∧
  (∃ s b, execAll [.crcByte b, .crcByte b] s ≠ execAll [.crcByte b] s)

/-- 41_crc.md R84: the four tag bytes are absorbed, `tag[0]` first, exactly as four `CRC_BYTE`s would; the tag
is not consumed; without a tag nothing is absorbed. -/
def Obligations.CrcTagAbsorbsTagBytes : Prop :=
  encode .crcTag = 0x2200000000 ∧
  (∀ s c', s.block.tagValid = true →
    c' = crcUpdate (crcUpdate (crcUpdate (crcUpdate s.block.crc s.block.tag.b0) s.block.tag.b1) s.block.tag.b2)
      s.block.tag.b3 →
    exec .crcTag s = .next
      { s with block := { s.block with crc := c' }, rsp := some ⟨.ok, c' ^^^ 0xFFFFFFFF⟩ }) ∧
  (∀ s, s.block.tagValid = false →
    exec .crcTag s = .next { s with rsp := some ⟨.noTag, 0x00000000⟩ }) ∧
  (∀ s, s.block.tagValid = true →
    exec .crcTag s = execAll [.crcByte s.block.tag.b0, .crcByte s.block.tag.b1, .crcByte s.block.tag.b2,
      .crcByte s.block.tag.b3] s)

/-- 41_crc.md R85: the checksum so far, nothing written, and 0 in a state just initialised or reset. -/
def Obligations.CrcReadReturnsChecksum : Prop :=
  encode .crcRead = 0x2300000000 ∧
  (∀ s, exec .crcRead s = .next { s with rsp := some ⟨.ok, s.block.crc ^^^ 0xFFFFFFFF⟩ } ∧
    (ports s).crcOut = s.block.crc ^^^ 0xFFFFFFFF) ∧
  (∀ s, ∃ t, execAll [.crcInit, .crcRead] s = .next t ∧ t.rsp = some ⟨.ok, 0x00000000⟩) ∧
  (∀ s, s.block = State.reset.block → exec .crcRead s = .next { s with rsp := some ⟨.ok, 0x00000000⟩ })

/-- 41_crc.md R86: the comparison is on all 32 bits and the result is the computed checksum in both outcomes. -/
def Obligations.CrcCheckComparesChecksum : Prop :=
  (∀ e, encode (.crcCheck e) = 0x24#8 ++ e) ∧
  (∀ s e, s.block.crc ^^^ 0xFFFFFFFF = e →
    exec (.crcCheck e) s = .next { s with rsp := some ⟨.ok, s.block.crc ^^^ 0xFFFFFFFF⟩ }) ∧
  (∀ s e, s.block.crc ^^^ 0xFFFFFFFF ≠ e →
    exec (.crcCheck e) s = .next { s with rsp := some ⟨.crcMismatch, s.block.crc ^^^ 0xFFFFFFFF⟩ }) ∧
  (∀ s e, (∃ t x, exec (.crcCheck e) s = .next t ∧ t.rsp = some ⟨.ok, x⟩) ↔ s.block.crc = e ^^^ 0xFFFFFFFF)

/-! ### Statuses -/

/-- 60_exceptions.md R101: the codes, which commands return which status, and the result that comes with it. -/
def Obligations.StatusOrigins : Prop :=
  (statusCode .ok = 0x0 ∧ statusCode .typeParseError = 0x1 ∧ statusCode .crcMismatch = 0x2 ∧
    statusCode .noTag = 0x3 ∧ statusCode .illegalCmd = 0x4 ∧ ∀ st, statusCode st < 0x5) ∧
  (∀ s w, ∃ t r, execWord w s = .next t ∧ t.rsp = some r ∧
    (r.status = .typeParseError →
      (∃ x, decode w = .ok (.typeLoad x) ∧ tagOk x = false) ∧ r.result = 0x00000000) ∧
    (r.status = .crcMismatch →
      (∃ e, decode w = .ok (.crcCheck e) ∧ e ≠ crcOut s.block.crc) ∧ r.result = crcOut s.block.crc) ∧
    (r.status = .noTag →
      (∃ i, decode w = .ok i ∧ NeedsTag i) ∧ s.block.tagValid = false ∧ r.result = 0x00000000) ∧
    (r.status = .illegalCmd → (∃ e, decode w = .error e) ∧ r.result = 0x00000000)) ∧
  (∀ o ∈ [0x00#8, 0x10, 0x11, 0x12, 0x13, 0x20, 0x21, 0x22, 0x23, 0x24],
    ∃ i s t x, opcodeOf i = o ∧ exec i s = .next t ∧ t.rsp = some ⟨.ok, x⟩)

/-- 60_exceptions.md R107: the first test that applies decides the status; reset overrides the command. -/
def Obligations.StatusPriority : Prop :=
  (∀ s w, ∃ t r, execWord w s = .next t ∧ t.rsp = some r ∧
    (∀ e, decode w = .error e → r.status = .illegalCmd) ∧
    (∀ i, decode w = .ok i →
      (NeedsTag i → s.block.tagValid = false → r.status = .noTag) ∧
      (∀ x, i = .typeLoad x → r.status = if tagOk x then .ok else .typeParseError) ∧
      (∀ e, i = .crcCheck e → r.status = if crcOut s.block.crc = e then .ok else .crcMismatch) ∧
      ((NeedsTag i → s.block.tagValid = true) → (∀ x, i ≠ .typeLoad x) → (∀ e, i ≠ .crcCheck e) →
        r.status = .ok))) ∧
  (∀ s, ResetNow s → (ports s).rspValid = false ∧ ∃ t, step s = .next t ∧ t.rsp = none)

/-- 60_exceptions.md R108: what a failing command does to the state and what it returns. -/
def Obligations.FailureEffects : Prop :=
  ∀ s w, Safe s → ∃ t r, execWord w s = .next t ∧ t.rsp = some r ∧
    (r.status = .typeParseError →
      t.block = { crc := s.block.crc, tag := ⟨0x00, 0x00, 0x00, 0x00⟩, tagValid := false } ∧
      r.result = 0x00000000) ∧
    (r.status = .crcMismatch → t.block = s.block ∧ r.result = crcOut s.block.crc) ∧
    (r.status = .noTag →
      t.block = s.block ∧ t.block.tag = ⟨0x00, 0x00, 0x00, 0x00⟩ ∧ t.block.tagValid = false ∧
      r.result = 0x00000000) ∧
    (r.status = .illegalCmd → t.block = s.block ∧ r.result = 0x00000000)

/-- 60_exceptions.md R102: `TYPE_PARSE_ERROR` exactly when a byte of the operand lies outside both letter ranges;
a text that is not four characters is refused by the assembler. -/
def Obligations.TypeParseErrorCause : Prop :=
  (∀ s w, (∃ t x, exec (.typeLoad w) s = .next t ∧ t.rsp = some ⟨.typeParseError, x⟩) ↔
    ∃ k ∈ [24, 16, 8, 0],
      ¬ (0x41 ≤ (w.extractLsb' k 8).toNat ∧ (w.extractLsb' k 8).toNat ≤ 0x5A) ∧
      ¬ (0x61 ≤ (w.extractLsb' k 8).toNat ∧ (w.extractLsb' k 8).toNat ≤ 0x7A)) ∧
  (∀ s w t x, exec (.typeLoad w) s = .next t → t.rsp = some ⟨.typeParseError, x⟩ →
    x = 0x00000000 ∧ t.block = { crc := s.block.crc, tag := ⟨0x00, 0x00, 0x00, 0x00⟩, tagValid := false }) ∧
  (∀ text, text.length ≠ 4 → expand (.typeLoadT text) = .error .typeParseError)

/-- 60_exceptions.md R103: `CRC_MISMATCH` exactly when `CrcOut(crc) != e`; the result is the computed checksum and
nothing changes. -/
def Obligations.CrcMismatchCause : Prop :=
  (∀ s i, (∃ t x, exec i s = .next t ∧ t.rsp = some ⟨.crcMismatch, x⟩) ↔
    ∃ e, i = .crcCheck e ∧ crcOut s.block.crc ≠ e) ∧
  (∀ s i t x, exec i s = .next t → t.rsp = some ⟨.crcMismatch, x⟩ →
    x = crcOut s.block.crc ∧ t.block = s.block)

/-- 60_exceptions.md R104: `NO_TAG` exactly when a tag-dependent command runs with `tag_valid == 0`; the result is
0 and nothing changes. -/
def Obligations.NoTagCause : Prop :=
  (∀ s i, (∃ t x, exec i s = .next t ∧ t.rsp = some ⟨.noTag, x⟩) ↔
    NeedsTag i ∧ s.block.tagValid = false) ∧
  (∀ s i, NeedsTag i → s.block.tagValid = false →
    exec i s = .next { s with rsp := some ⟨.noTag, 0x00000000⟩ })

/-! ### The ChunkType unit -/

/-- 40_chunktype.md R60: the letter ranges; 52 of the 256 byte values are letters. -/
def Obligations.LetterRanges : Prop :=
  (∀ b : Byte, isUpper b = true ↔ 0x41 ≤ b.toNat ∧ b.toNat ≤ 0x5A) ∧
  (∀ b : Byte, isLower b = true ↔ 0x61 ≤ b.toNat ∧ b.toNat ≤ 0x7A) ∧
  (∀ b : Byte, isLetter b = true ↔ isUpper b = true ∨ isLower b = true) ∧
  ((List.range 256).filter (fun n => isLetter (BitVec.ofNat 8 n))).length = 52 ∧
  (∀ b : Byte, b.getLsbD 7 = true → isLetter b = false) ∧
  (∀ b ∈ [0x40#8, 0x5B, 0x60, 0x7B, 0x20, 0x00], isLetter b = false) ∧
  (∀ b : Byte, 0x30 ≤ b.toNat → b.toNat ≤ 0x39 → isLetter b = false)

/-- 40_chunktype.md R63: the properties of a tag word are the case of its letters, with the polarity of each, and
bit `i` of `Props` belongs to byte `i`. -/
def Obligations.PropertiesAreLetterCase : Prop :=
  ∀ w, tagOk w = true →
    (isCritical (tagOfWord w) = true ↔ isUpper (w.extractLsb' 24 8) = true) ∧
    (isPublic (tagOfWord w) = true ↔ isUpper (w.extractLsb' 16 8) = true) ∧
    (isReservedBitValid (tagOfWord w) = true ↔ isUpper (w.extractLsb' 8 8) = true) ∧
    (isSafeToCopy (tagOfWord w) = true ↔ isLower (w.extractLsb' 0 8) = true) ∧
    (props w).getLsbD 0 = isCritical (tagOfWord w) ∧ (props w).getLsbD 1 = isPublic (tagOfWord w) ∧
    (props w).getLsbD 2 = isReservedBitValid (tagOfWord w) ∧ (props w).getLsbD 3 = isSafeToCopy (tagOfWord w) ∧
    (props w).getLsbD 0 = !(w.extractLsb' 24 8).getLsbD 5 ∧ (props w).getLsbD 1 = !(w.extractLsb' 16 8).getLsbD 5 ∧
    (props w).getLsbD 2 = !(w.extractLsb' 8 8).getLsbD 5 ∧ (props w).getLsbD 3 = (w.extractLsb' 0 8).getLsbD 5

/-- derived (40_chunktype.md section 3, law 6): flipping bit 5 of byte `i` of a valid tag word gives a valid tag
word whose `Props` differs in bit `i` only. -/
def Obligations.BitFiveFlipsOneProperty : Prop :=
  ∀ w i, i < 4 → tagOk w = true →
    tagOk (w ^^^ (0x20#32 <<< (24 - 8 * i))) = true ∧
    props (w ^^^ (0x20#32 <<< (24 - 8 * i))) = props w ^^^ (1#4 <<< i)

/-- derived (40_chunktype.md section 3, laws 1 to 4): after a successful load the tag reads back, equals itself
alone, and has the properties the load answered; after a failed load every tag-dependent command answers
`NO_TAG`. -/
def Obligations.LoadDeterminesLaterAnswers : Prop :=
  (∀ s w x, tagOk w = true → ∃ t q, exec (.typeLoad w) s = .next t ∧ t.rsp = some ⟨.ok, q⟩ ∧
    exec .typeRead t = .next { t with rsp := some ⟨.ok, w⟩ } ∧
    exec (.typeEq x) t = .next { t with rsp := some ⟨.ok, if x = w then 1 else 0⟩ } ∧
    exec .typeProps t = .next { t with rsp := some ⟨.ok, q⟩ }) ∧
  (∀ s w i, tagOk w = false → NeedsTag i → ∃ t, exec (.typeLoad w) s = .next t ∧
    exec i t = .next { t with rsp := some ⟨.noTag, 0x00000000⟩ })

/-- derived (40_chunktype.md section 3 law 5, 41_crc.md section 3 R89 law 5, 70_reset_and_hazards.md section 3): the
two units share nothing but `CRC_TAG`: neither writes the other's registers, and but for `CRC_TAG` what a command
of one does depends on its own registers alone. -/
def Obligations.UnitsShareOnlyCrcTag : Prop :=
  (∀ i s, OfChunkTypeUnit i ∨ i = .nop → ∃ t, exec i s = .next t ∧ t.block.crc = s.block.crc) ∧
  (∀ i s, OfCrcUnit i ∨ i = .nop → ∃ t, exec i s = .next t ∧
    t.block.tag = s.block.tag ∧ t.block.tagValid = s.block.tagValid) ∧
  (∀ i s s', OfCrcUnit i → i ≠ .crcTag → s.block.crc = s'.block.crc →
    ∃ t t', exec i s = .next t ∧ exec i s' = .next t' ∧ t.block.crc = t'.block.crc ∧ t.rsp = t'.rsp) ∧
  (∀ i s s', OfChunkTypeUnit i → s.block.tag = s'.block.tag → s.block.tagValid = s'.block.tagValid →
    ∃ t t', exec i s = .next t ∧ exec i s' = .next t' ∧ t.block.tag = t'.block.tag ∧
      t.block.tagValid = t'.block.tagValid ∧ t.rsp = t'.rsp)

/-- 20_memory.md R40: six commands write no state, may be repeated with the same response and inserted anywhere;
`CRC_INIT` and `TYPE_LOAD` are idempotent; `CRC_BYTE` and `CRC_TAG` are not; reading the ports has no effect
(they are functions of the state). -/
def Obligations.RepeatableCommands : Prop :=
  (∀ i s, WritesNothing i → ∃ t, exec i s = .next t ∧ t.block = s.block ∧ t.inputs = s.inputs ∧
    exec i t = .next t) ∧
  (∀ i is s, WritesNothing i → ∃ t u, execAll (i :: is) s = .next t ∧ execAll is s = .next u ∧
    t.block = u.block ∧ (is ≠ [] → t.rsp = u.rsp)) ∧
  (∀ s, execAll [.crcInit, .crcInit] s = execAll [.crcInit] s) ∧
  (∀ s w, execAll [.typeLoad w, .typeLoad w] s = execAll [.typeLoad w] s) ∧
  (∃ s b, execAll [.crcByte b, .crcByte b] s ≠ execAll [.crcByte b] s) ∧
  (∃ s, execAll [.crcTag, .crcTag] s ≠ execAll [.crcTag] s)

/-! ### The CRC unit -/

/-- 41_crc.md R76: the byte goes into bits 7:0, then eight times the same step; and the worked example. -/
def Obligations.CrcUpdateIsEightSteps : Prop :=
  (∀ f : Word → Word,
    (∀ c, f c = if c.getLsbD 0 = true then (c >>> 1) ^^^ 0xEDB88320 else c >>> 1) →
    ∀ c b, crcUpdate c b = f (f (f (f (f (f (f (f (c ^^^ b.setWidth 32))))))))) ∧
  crcUpdate 0xFFFFFFFF 0x74 = 0x7A95A557

/-- derived (41_crc.md section 1): the reflected polynomial is the normal one reversed, and the check value of the
variant comes out. -/
def Obligations.CheckValueOfVariant : Prop :=
  BitVec.reverse 0x04C11DB7#32 = 0xEDB88320 ∧
  crc32 [0x31, 0x32, 0x33, 0x34, 0x35, 0x36, 0x37, 0x38, 0x39] = 0xCBF43926

/-- derived (41_crc.md section 1, the table form): the table form computes the same function. -/
def Obligations.TableFormAgrees : Prop :=
  ∀ c b, crcUpdateTable c b = crcUpdate c b

/-- derived (41_crc.md section 1, the normal form): the left-shifting form is the mirror image, byte by byte and
for whole messages. -/
def Obligations.NormalFormAgrees : Prop :=
  (∀ c b, (crcUpdateNormal c.reverse b).reverse = crcUpdate c b) ∧
  (∀ m, crc32 m = (crcBytesNormal 0xFFFFFFFF m).reverse ^^^ 0xFFFFFFFF)

/-- derived (41_crc.md section 3, R89, law 3): `CrcUpdate` is linear over XOR. -/
def Obligations.CrcUpdateLinear : Prop :=
  ∀ c1 c2 b1 b2, crcUpdate (c1 ^^^ c2) (b1 ^^^ b2) = crcUpdate c1 b1 ^^^ crcUpdate c2 b2

/-- derived (41_crc.md section 3, R89, law 2): for a fixed byte a bijection on registers, for a fixed register injective
in the byte. -/
def Obligations.CrcUpdateLosesNothing : Prop :=
  (∀ b, Function.Bijective (fun c => crcUpdate c b)) ∧ (∀ c, Function.Injective (fun b => crcUpdate c b))

/-- derived (41_crc.md section 3, R89, law 4, and more than it: any change of one byte, so any single-bit flip): the
checksum changes, and `CRC_CHECK` of the old checksum after the changed message answers `CRC_MISMATCH`. -/
def Obligations.OneChangedByteIsDetected : Prop :=
  ∀ (m n : List Byte) (b b' : Byte) (s : State), b ≠ b' →
    crc32 (m ++ b :: n) ≠ crc32 (m ++ b' :: n) ∧
    ∃ t, execAll (.crcInit :: (m ++ b' :: n).map .crcByte) s = .next t ∧
      exec (.crcCheck (crc32 (m ++ b :: n))) t =
        .next { t with rsp := some ⟨.crcMismatch, crc32 (m ++ b' :: n)⟩ }

/-- derived (41_crc.md section 1, R77 and R78's inference): after `CRC_INIT` and the bytes of a message the register
is the fold and `crc_out` the checksum; the tag is untouched; the empty message has checksum 0. -/
def Obligations.MessageChecksum : Prop :=
  (∀ s m, ∃ t, execAll (.crcInit :: m.map .crcByte) s = .next t ∧
    t.block = { s.block with crc := crcBytes 0xFFFFFFFF m } ∧ t.inputs = s.inputs ∧
    (ports t).crcOut = crc32 m) ∧
  crc32 [] = 0x00000000 ∧ (∀ c, crcOut (crcOut c) = c)

/-- 41_crc.md R87: every CRC command answered `OK` or `CRC_MISMATCH` returns what `crc_out` shows from the next
cycle on, `CRC_TAG` answered `NO_TAG` returns 0. -/
def Obligations.CrcResultIsNextCrcOut : Prop :=
  ∀ s i, OfCrcUnit i → AcceptsNow s (encode i) → ∃ t r, step s = .next t ∧ t.rsp = some r ∧
    (r.status = .ok ∨ r.status = .crcMismatch → r.result = (ports t).crcOut) ∧
    (r.status = .noTag → i = .crcTag ∧ r.result = 0x00000000) ∧
    (i = .crcInit → r.result = 0x00000000) ∧
    (i = .crcRead ∨ (∃ e, i = .crcCheck e) → (ports t).crcOut = (ports s).crcOut)

/-- 70_reset_and_hazards.md R124: without a `CRC_INIT` between them a second checksum is that of both messages
concatenated. -/
def Obligations.ForgottenInitConcatenates : Prop :=
  (∀ s (m n : List Byte), ∃ t, execAll (.crcInit :: m.map .crcByte ++ [.crcRead] ++ n.map .crcByte ++ [.crcRead]) s = .next t ∧
    t.rsp = some ⟨.ok, crc32 (m ++ n)⟩) ∧
  (∀ s (m n : List Byte), ∃ t, execAll (.crcInit :: m.map .crcByte ++ [.crcRead, .crcInit] ++ n.map .crcByte ++ [.crcRead]) s =
      .next t ∧ t.rsp = some ⟨.ok, crc32 n⟩) ∧
  crc32 [0x61] = 0xE8B7BE43 ∧ crc32 [0x61, 0x61] = 0x078A19D7

/-- 41_crc.md R81: the canonical command sequence of a chunk computes the checksum of the four type bytes and then
the payload; `CRC_READ` returns it and `CRC_CHECK` answers `OK` exactly on it. -/
def Obligations.ChunkChecksumCoversTypeAndPayload : Prop :=
  ∀ s w d v, tagOk w = true →
    v = crc32 ([w.extractLsb' 24 8, w.extractLsb' 16 8, w.extractLsb' 8 8, w.extractLsb' 0 8] ++ d) →
    (∃ t x, exec (.typeLoad w) s = .next t ∧ t.rsp = some ⟨.ok, x⟩) ∧
    ∃ t, execAll ([.typeLoad w, .crcInit, .crcTag] ++ d.map .crcByte) s = .next t ∧
      t.block.tag = tagOfWord w ∧ t.block.tagValid = true ∧ (ports t).crcOut = v ∧
      exec .crcRead t = .next { t with rsp := some ⟨.ok, v⟩ } ∧
      ∀ e, exec (.crcCheck e) t = .next { t with rsp := some ⟨if e = v then .ok else .crcMismatch, v⟩ }

/-! ### The assembler -/

/-- 20_memory.md R35: the bytes of a CRC value most significant first, and `CRC_CHECKB` puts them together again. -/
def Obligations.CrcBytesBigEndian : Prop :=
  (∀ v : Word, crcRecordBytes v = [v.extractLsb' 24 8, v.extractLsb' 16 8, v.extractLsb' 8 8, v.extractLsb' 0 8]) ∧
  (∀ v t0 t1 t2 t3, crcRecordBytes v = [t0, t1, t2, t3] →
    expand (.crcCheckB t0 t1 t2 t3) = .ok [.crcCheck v] ∧ v = t0 ++ t1 ++ t2 ++ t3) ∧
  crcRecordBytes 0xAE426082 = [0xAE, 0x42, 0x60, 0x82]

/-- derived (30_encoding.md section 4; the printed form and the reader's leniency are log entry 6): reading the
line of a command gives the command, with a comment or without, and rendering a tag as text inverts the text
constructor. -/
def Obligations.AssemblerInvertsPrinting : Prop :=
  (∀ i, assembleLine (commandLine i) = .ok (some i)) ∧
  (∀ i comment, assembleLine (commandLine i ++ [' ', ';'] ++ comment) = .ok (some i)) ∧
  (∀ w, tagOk w = true → ∃ text, wordText w = some text ∧ text.length = 4 ∧ textWord text = some w)

/-- derived (30_encoding.md section 4, R55): the expansions of the six pseudo-commands; that a `CRC_CHUNK` whose
text is refused emits none of its commands is the model's choice (log entry 14). -/
def Obligations.PseudoCommandExpansions : Prop :=
  (∀ text w, textWord text = some w →
    expand (.typeLoadT text) = .ok [.typeLoad w] ∧ expand (.typeEqT text) = .ok [.typeEq w] ∧
    (∀ bs : List Byte, expand (.crcChunk text bs) =
      .ok ([.typeLoad w, .crcInit, .crcTag] ++ bs.map .crcByte ++ [.crcRead]))) ∧
  (∀ text, textWord text = none →
    expand (.typeLoadT text) = .error .typeParseError ∧ (∃ e, expand (.typeEqT text) = .error e) ∧
    ∀ bs, expand (.crcChunk text bs) = .error .typeParseError) ∧
  (∀ bs : List Byte, expand (.crcBytes bs) = .ok (bs.map .crcByte)) ∧
  (∀ text : List Char, (∀ c ∈ text, c.toNat ≤ 0xFF) →
    expand (.crcStr text) = .ok (text.map (fun c => .crcByte (BitVec.ofNat 8 c.toNat)))) ∧
  (∀ text : List Char, (∃ c ∈ text, 0xFF < c.toNat) → ∃ e, expand (.crcStr text) = .error e) ∧
  (∀ t0 t1 t2 t3 : Byte, expand (.crcCheckB t0 t1 t2 t3) = .ok [.crcCheck (t0 ++ t1 ++ t2 ++ t3)])

/-- 30_encoding.md R56: the text constructor takes exactly four characters of code at most 0xFF, the first in bits
31:24; four such characters that are not all letters are assembled, and the hardware answers
`TYPE_PARSE_ERROR`. -/
def Obligations.TextConstructor : Prop :=
  (∀ c0 c1 c2 c3 : Char, c0.toNat ≤ 0xFF → c1.toNat ≤ 0xFF → c2.toNat ≤ 0xFF → c3.toNat ≤ 0xFF →
    ∃ w : Word, expand (.typeLoadT [c0, c1, c2, c3]) = .ok [.typeLoad w] ∧
      (w.extractLsb' 24 8).toNat = c0.toNat ∧ (w.extractLsb' 16 8).toNat = c1.toNat ∧
      (w.extractLsb' 8 8).toNat = c2.toNat ∧ (w.extractLsb' 0 8).toNat = c3.toNat ∧
      (tagOk w = false → ∀ s, ∃ t, exec (.typeLoad w) s = .next t ∧
        t.rsp = some ⟨.typeParseError, 0x00000000⟩)) ∧
  (∀ text : List Char, text.length ≠ 4 ∨ (∃ c ∈ text, 0xFF < c.toNat) →
    expand (.typeLoadT text) = .error .typeParseError) ∧
  expand (.typeLoadT ['R', 'u', 'S', 't']) = .ok [.typeLoad 0x52755374]

/-! ### Streaming -/

/-- derived (41_crc.md section 3, R89, laws 1 and 5): a message may be cut anywhere, and fed interleaved with idle
cycles and with any commands but `CRC_INIT`: the register is the fold of the bytes absorbed, and after a `CRC_INIT`
`crc_out` is their checksum; the commands of the ChunkType unit, `NOP` and the read commands absorb nothing. -/
def Obligations.MessageMayBeInterleaved : Prop :=
  (∀ c (m n : List Byte), crcBytes c (m ++ n) = crcBytes (crcBytes c m) n) ∧
  (∀ s (is : List Instr) ps, .crcInit ∉ is → (∀ p ∈ ps, p.rst = false) →
    ps.filter (fun p => p.cmdValid) = is.map (fun i => commandPins (encode i)) →
    ∃ t, runCycles ps.length (withInputs ps s) = .next t ∧
      t.block.crc = crcBytes s.block.crc (absorbedByAll is s)) ∧
  (∀ s (is : List Instr), .crcInit ∉ is → ∃ t u, exec .crcInit s = .next t ∧ execAll is t = .next u ∧
    (ports u).crcOut = crc32 (absorbedByAll is t)) ∧
  (∀ b i, WritesNothing i ∨ OfChunkTypeUnit i → absorbedBy b i = [])
end

