-- ==== Sys2Proof/Laws/Crc32.lean ====
section
/-! SUPPORT. Small laws of the checksum functions. -/

namespace Sys2Proof.Machine

@[simp] theorem crcSteps_zero (c : Word) : crcSteps 0 c = c := rfl
@[simp] theorem crcSteps_succ (n : Nat) (c : Word) : crcSteps (n + 1) c = crcSteps n (crcStep c) := rfl

@[simp] theorem crcBytes_nil (c : Word) : crcBytes c [] = c := rfl
@[simp] theorem crcBytes_cons (c : Word) (b : Byte) (m : List Byte) :
    crcBytes c (b :: m) = crcBytes (crcUpdate c b) m := rfl

/-- Streaming (41_crc.md R89, law 1). -/
theorem crcBytes_append (c : Word) (m n : List Byte) :
    crcBytes c (m ++ n) = crcBytes (crcBytes c m) n := by
  induction m generalizing c with
  | nil => rfl
  | cons b m ih => exact ih _

/-- `CrcOut` is its own inverse (41_crc.md R78). -/
@[simp] theorem crcOut_crcOut (c : Word) : crcOut (crcOut c) = c := by
  simp [crcOut]

/-- A message's checksum is `CrcOut` of its remainder (41_crc.md R77, R78). -/
theorem crc32_eq (m : List Byte) : crc32 m = crcOut (crcBytes Config.crcInit m) := rfl

end Sys2Proof.Machine
end

