-- ==== Sys2Proof/Laws/Words.lean ====
section
/-! SUPPORT. The operand of form `BYTE`: a byte below 24 zero bits (30_encoding.md R47, R48). -/

namespace Sys2Proof

/-- Zero-extending a byte puts 24 zero bits above it. -/
theorem zext_byte_eq_append (b : Byte) : b.setWidth 32 = (0#24 ++ b : Word) :=
  BitVec.setWidth_eq_append (by decide)

/-- A word is its bits 31:8 followed by its bits 7:0. -/
theorem append_bits31_8 (x : Word) : (x.extractLsb' 8 24 ++ x.extractLsb' 0 8 : Word) = x :=
  (BitVec.extractLsb'_append_extractLsb'_eq_extractLsb' rfl).trans BitVec.extractLsb'_eq_self

/-- Bits 31:8 and 7:0 of a word built from both. -/
theorem bits31_8_append (h : BitVec 24) (l : Byte) : (h ++ l : Word).extractLsb' 8 24 = h :=
  BitVec.extractLsb'_append_eq_left

theorem bits7_0_append (h : BitVec 24) (l : Byte) : (h ++ l : Word).extractLsb' 0 8 = l :=
  (BitVec.extractLsb'_append_eq_of_add_le (xhi := h) (xlo := l) (Nat.le_refl 8)).trans
    BitVec.extractLsb'_eq_self

@[simp] theorem bits7_0_zext_byte (b : Byte) : (b.setWidth 32 : Word).extractLsb' 0 8 = b := by
  rw [zext_byte_eq_append]
  exact bits7_0_append _ _

/-- The must-be-zero bits of form `BYTE` are bits 31:8. -/
theorem and_byteMask (x : Word) : x &&& 0xFFFFFF00#32 = (x.extractLsb' 8 24 ++ 0#8 : Word) := by
  conv_lhs => rw [← append_bits31_8 x]
  refine (BitVec.and_append (x₂ := 0xFFFFFF#24) (y₂ := 0#8)).trans ?_
  rw [BitVec.and_zero]
  exact congrArg (· ++ 0#8) BitVec.and_allOnes

theorem and_byteMask_eq_zero_iff (x : Word) : x &&& 0xFFFFFF00#32 = 0#32 ↔ x.extractLsb' 8 24 = 0 := by
  rw [and_byteMask]
  refine ⟨fun h => ?_, fun h => by rw [h]; rfl⟩
  have := bits31_8_append (x.extractLsb' 8 24) 0#8
  rw [h] at this
  exact this.symm

/-- An operand of form `BYTE` is its byte zero-extended. -/
theorem zext_bits7_0 {x : Word} (h : x &&& 0xFFFFFF00#32 = 0#32) : (x.extractLsb' 0 8).setWidth 32 = x := by
  conv_rhs => rw [← append_bits31_8 x, (and_byteMask_eq_zero_iff x).1 h]
  exact zext_byte_eq_append _

@[simp] theorem zext_byte_and_mask (b : Byte) : (b.setWidth 32 : Word) &&& 0xFFFFFF00#32 = 0#32 := by
  rw [and_byteMask_eq_zero_iff, zext_byte_eq_append]
  exact bits31_8_append _ _

end Sys2Proof
end

