-- ==== Sys2Proof/Laws/Decode.lean ====
section
/-! SUPPORT. The fields of a command word, and what a row's mask and match say about them. -/

namespace Sys2Proof

@[simp] theorem opcodeField_append (o : Opcode) (x : Word) : opcodeField (o ++ x) = o :=
  BitVec.extractLsb'_append_eq_left

@[simp] theorem operandField_append (o : Opcode) (x : Word) : operandField (o ++ x) = x :=
  (BitVec.extractLsb'_append_eq_of_add_le (xhi := o) (xlo := x) (Nat.le_refl 32)).trans
    BitVec.extractLsb'_eq_self

@[simp] theorem byteField_append (o : Opcode) (x : Word) : byteField (o ++ x) = x.extractLsb' 0 8 :=
  BitVec.extractLsb'_append_eq_of_add_le (xhi := o) (xlo := x) (by decide)

/-- A command word is its opcode field followed by its operand field (30_encoding.md R45). -/
theorem append_fields (w : CmdWord) : (opcodeField w ++ operandField w : CmdWord) = w :=
  (BitVec.extractLsb'_append_extractLsb'_eq_extractLsb' (x := w) rfl).trans BitVec.extractLsb'_eq_self

/-- Two command words are equal when their fields are. -/
theorem append_inj {o o' : Opcode} {x x' : Word} :
    (o ++ x : CmdWord) = o' ++ x' ↔ o = o' ∧ x = x' := by
  refine ⟨fun h => ⟨?_, ?_⟩, fun ⟨h, h'⟩ => by rw [h, h']⟩
  · simpa using congrArg opcodeField h
  · simpa using congrArg operandField h

/-- A word matches a row given by fields exactly when each field does. -/
theorem and_append_eq_iff {o m p : Opcode} {x n q : Word} :
    ((o ++ x : CmdWord) &&& (m ++ n)) = p ++ q ↔ o &&& m = p ∧ x &&& n = q := by
  rw [← append_inj]
  exact Eq.congr_left BitVec.and_append

@[simp] theorem opcode_and_ones (o : Opcode) : o &&& 0xFF#8 = o := BitVec.and_allOnes
@[simp] theorem word_and_ones (x : Word) : x &&& 0xFFFFFFFF#32 = x := BitVec.and_allOnes

/-- A word matches a match and mask of each form exactly when its fields do (30_encoding.md R47, R49). -/
theorem and_noneMask_iff (w : CmdWord) (p : Opcode) :
    w &&& 0xFFFFFFFFFF = (p ++ 0#32 : CmdWord) ↔ opcodeField w = p ∧ operandField w = 0#32 := by
  have h := @and_append_eq_iff (opcodeField w) 0xFF#8 p (operandField w) 0xFFFFFFFF#32 0#32
  rw [append_fields, opcode_and_ones, word_and_ones] at h
  exact h

theorem and_wordMask_iff (w : CmdWord) (p : Opcode) :
    w &&& 0xFF00000000 = (p ++ 0#32 : CmdWord) ↔ opcodeField w = p := by
  have h := @and_append_eq_iff (opcodeField w) 0xFF#8 p (operandField w) 0#32 0#32
  rw [append_fields, opcode_and_ones, BitVec.and_zero, eq_self, and_true] at h
  exact h

theorem and_byteMask_iff (w : CmdWord) (p : Opcode) :
    w &&& 0xFFFFFFFF00 = (p ++ 0#32 : CmdWord) ↔
      opcodeField w = p ∧ operandField w &&& 0xFFFFFF00#32 = 0#32 := by
  have h := @and_append_eq_iff (opcodeField w) 0xFF#8 p (operandField w) 0xFFFFFF00#32 0#32
  rw [append_fields, opcode_and_ones] at h
  exact h

/-- The byte of a word is the low byte of its operand field. -/
theorem byteField_eq (w : CmdWord) : byteField w = (operandField w).extractLsb' 0 8 := by
  have h := byteField_append (opcodeField w) (operandField w)
  rwa [append_fields] at h

/-- The opcode map with its match and mask words written by fields. -/
theorem opcodeMap_fields : opcodeMap =
    [ ⟨0x00#8 ++ 0#32, 0xFF#8 ++ 0xFFFFFFFF#32, fun _ => .nop⟩,
      ⟨0x10#8 ++ 0#32, 0xFF#8 ++ 0#32, fun w => .typeLoad (operandField w)⟩,
      ⟨0x11#8 ++ 0#32, 0xFF#8 ++ 0xFFFFFFFF#32, fun _ => .typeRead⟩,
      ⟨0x12#8 ++ 0#32, 0xFF#8 ++ 0xFFFFFFFF#32, fun _ => .typeProps⟩,
      ⟨0x13#8 ++ 0#32, 0xFF#8 ++ 0#32, fun w => .typeEq (operandField w)⟩,
      ⟨0x20#8 ++ 0#32, 0xFF#8 ++ 0xFFFFFFFF#32, fun _ => .crcInit⟩,
      ⟨0x21#8 ++ 0#32, 0xFF#8 ++ 0xFFFFFF00#32, fun w => .crcByte (byteField w)⟩,
      ⟨0x22#8 ++ 0#32, 0xFF#8 ++ 0xFFFFFFFF#32, fun _ => .crcTag⟩,
      ⟨0x23#8 ++ 0#32, 0xFF#8 ++ 0xFFFFFFFF#32, fun _ => .crcRead⟩,
      ⟨0x24#8 ++ 0#32, 0xFF#8 ++ 0#32, fun w => .crcCheck (operandField w)⟩ ] := rfl

/-- A word given by fields matches a row given by fields when both fields do. -/
theorem rowMatches_append (o m p : Opcode) (x n q : Word) (f : CmdWord → Instr) :
    rowMatches (o ++ x) ⟨p ++ q, m ++ n, f⟩ = (decide (o &&& m = p) && decide (x &&& n = q)) := by
  rw [rowMatches, Bool.eq_iff_iff]
  simp only [beq_iff_eq, Bool.and_eq_true, decide_eq_true_eq]
  exact and_append_eq_iff

/-- What the decoder answers, in terms of the two fields of the word. -/
theorem decode_append (o : Opcode) (x : Word) : decode (o ++ x) =
    if o = 0x00#8 ∧ x = 0#32 then .ok .nop
    else if o = 0x10#8 then .ok (.typeLoad x)
    else if o = 0x11#8 ∧ x = 0#32 then .ok .typeRead
    else if o = 0x12#8 ∧ x = 0#32 then .ok .typeProps
    else if o = 0x13#8 then .ok (.typeEq x)
    else if o = 0x20#8 ∧ x = 0#32 then .ok .crcInit
    else if o = 0x21#8 ∧ x &&& 0xFFFFFF00#32 = 0#32 then .ok (.crcByte (x.extractLsb' 0 8))
    else if o = 0x22#8 ∧ x = 0#32 then .ok .crcTag
    else if o = 0x23#8 ∧ x = 0#32 then .ok .crcRead
    else if o = 0x24#8 then .ok (.crcCheck x)
    else .error (illegalReason (o ++ x)) := by
  rw [decode, opcodeMap_fields]
  simp only [List.find?, rowMatches_append, opcode_and_ones, word_and_ones, BitVec.and_zero, decide_true,
    Bool.and_true, ← Bool.decide_and]
  repeat' split
  all_goals simp_all
  all_goals (subst_vars; simp)

end Sys2Proof
end

