-- ==== Sys2Proof/Laws/Operands.lean ====
section
/-! SUPPORT. Byte lanes: a word of four bytes gives the bytes back, and the other way (20_memory.md R34, R35). -/

namespace Sys2Proof.Machine

/-- The lanes of a word of four bytes are those bytes. -/
theorem tagOfWord_wordOfBytes (b0 b1 b2 b3 : Byte) :
    tagOfWord (wordOfBytes b0 b1 b2 b3) = ⟨b0, b1, b2, b3⟩ := by
  have h3 : lane3 (wordOfBytes b0 b1 b2 b3) = b3 :=
    (BitVec.extractLsb'_append_eq_of_add_le (xhi := b0 ++ b1 ++ b2) (xlo := b3) (Nat.le_refl 8)).trans
      BitVec.extractLsb'_eq_self
  have h2 : lane2 (wordOfBytes b0 b1 b2 b3) = b2 :=
    (BitVec.extractLsb'_append_eq_of_le (xhi := b0 ++ b1 ++ b2) (xlo := b3) (Nat.le_refl 8)).trans
      ((BitVec.extractLsb'_append_eq_of_add_le (xhi := b0 ++ b1) (xlo := b2) (Nat.le_refl 8)).trans
        BitVec.extractLsb'_eq_self)
  have h1 : lane1 (wordOfBytes b0 b1 b2 b3) = b1 :=
    (BitVec.extractLsb'_append_eq_of_le (xhi := b0 ++ b1 ++ b2) (xlo := b3) (by decide)).trans
      ((BitVec.extractLsb'_append_eq_of_le (xhi := b0 ++ b1) (xlo := b2) (by decide)).trans
        ((BitVec.extractLsb'_append_eq_of_add_le (xhi := b0) (xlo := b1) (Nat.le_refl 8)).trans
          BitVec.extractLsb'_eq_self))
  have h0 : lane0 (wordOfBytes b0 b1 b2 b3) = b0 :=
    (BitVec.extractLsb'_append_eq_of_le (xhi := b0 ++ b1 ++ b2) (xlo := b3) (by decide)).trans
      ((BitVec.extractLsb'_append_eq_of_le (xhi := b0 ++ b1) (xlo := b2) (by decide)).trans
        ((BitVec.extractLsb'_append_eq_of_le (xhi := b0) (xlo := b1) (by decide)).trans
          BitVec.extractLsb'_eq_self))
  rw [tagOfWord, h0, h1, h2, h3]

/-- A word is its four lanes, most significant first. -/
theorem wordOfBytes_lanes (w : Word) : wordOfBytes (lane0 w) (lane1 w) (lane2 w) (lane3 w) = w := by
  have h1 : w.extractLsb' 24 8 ++ w.extractLsb' 16 8 = w.extractLsb' 16 16 :=
    BitVec.extractLsb'_append_extractLsb'_eq_extractLsb' rfl
  have h2 : w.extractLsb' 16 16 ++ w.extractLsb' 8 8 = w.extractLsb' 8 24 :=
    BitVec.extractLsb'_append_extractLsb'_eq_extractLsb' rfl
  have h3 : w.extractLsb' 8 24 ++ w.extractLsb' 0 8 = w.extractLsb' 0 32 :=
    BitVec.extractLsb'_append_extractLsb'_eq_extractLsb' rfl
  simp only [wordOfBytes, lane0, lane1, lane2, lane3]
  rw [h1, h2, h3]
  exact BitVec.extractLsb'_eq_self

@[simp] theorem tagWord_tagOfWord (w : Word) : tagWord (tagOfWord w) = w := wordOfBytes_lanes w

@[simp] theorem tagOfWord_tagWord (t : Tag) : tagOfWord (tagWord t) = t :=
  tagOfWord_wordOfBytes t.b0 t.b1 t.b2 t.b3

end Sys2Proof.Machine
end

