-- ==== Sys2Proof/Laws/State.lean ====
section
/-! SUPPORT. What each state update leaves in each field: one lemma per field per update. -/

namespace Sys2Proof.Machine

@[simp] theorem setCrc_crc (c : Word) (s : State) : (setCrc c s).block.crc = c := rfl
@[simp] theorem setCrc_tag (c : Word) (s : State) : (setCrc c s).block.tag = s.block.tag := rfl
@[simp] theorem setCrc_tagValid (c : Word) (s : State) : (setCrc c s).block.tagValid = s.block.tagValid := rfl
@[simp] theorem setCrc_inputs (c : Word) (s : State) : (setCrc c s).inputs = s.inputs := rfl
@[simp] theorem setCrc_rsp (c : Word) (s : State) : (setCrc c s).rsp = s.rsp := rfl

@[simp] theorem setTag_crc (t : Tag) (s : State) : (setTag t s).block.crc = s.block.crc := rfl
@[simp] theorem setTag_tag (t : Tag) (s : State) : (setTag t s).block.tag = t := rfl
@[simp] theorem setTag_tagValid (t : Tag) (s : State) : (setTag t s).block.tagValid = true := rfl
@[simp] theorem setTag_inputs (t : Tag) (s : State) : (setTag t s).inputs = s.inputs := rfl
@[simp] theorem setTag_rsp (t : Tag) (s : State) : (setTag t s).rsp = s.rsp := rfl

@[simp] theorem clearTag_crc (s : State) : (clearTag s).block.crc = s.block.crc := rfl
@[simp] theorem clearTag_tag (s : State) : (clearTag s).block.tag = zeroTag := rfl
@[simp] theorem clearTag_tagValid (s : State) : (clearTag s).block.tagValid = false := rfl
@[simp] theorem clearTag_inputs (s : State) : (clearTag s).inputs = s.inputs := rfl
@[simp] theorem clearTag_rsp (s : State) : (clearTag s).rsp = s.rsp := rfl

@[simp] theorem resetState_block (s : State) : (resetState s).block = resetBlock := rfl
@[simp] theorem resetState_inputs (s : State) : (resetState s).inputs = s.inputs := rfl
@[simp] theorem resetState_rsp (s : State) : (resetState s).rsp = s.rsp := rfl

@[simp] theorem takeEdge_block (s : State) : (takeEdge s).block = s.block := rfl
@[simp] theorem takeEdge_inputs (s : State) : (takeEdge s).inputs = s.inputs.tail := rfl
@[simp] theorem takeEdge_rsp (s : State) : (takeEdge s).rsp = none := rfl

@[simp] theorem presentPins_block (p : CycleIn) (s : State) : (presentPins p s).block = s.block := rfl
@[simp] theorem presentPins_rsp (p : CycleIn) (s : State) : (presentPins p s).rsp = s.rsp := rfl
@[simp] theorem presentPins_tail (p : CycleIn) (s : State) :
    (presentPins p s).inputs.tail = s.inputs.tail := rfl
@[simp] theorem currentPins_presentPins (p : CycleIn) (s : State) :
    currentPins (presentPins p s) = p := rfl

@[simp] theorem withInputs_block (ps : List CycleIn) (s : State) : (withInputs ps s).block = s.block := rfl
@[simp] theorem withInputs_inputs (ps : List CycleIn) (s : State) : (withInputs ps s).inputs = ps := rfl
@[simp] theorem withInputs_rsp (ps : List CycleIn) (s : State) : (withInputs ps s).rsp = s.rsp := rfl

end Sys2Proof.Machine
end

