-- ==== Sys2Proof/Laws/Ops.lean ====
section
/-! SUPPORT. What each shared operation can answer, and from that what a command and a cycle can answer. -/

namespace Sys2Proof.Machine

/-- `respond` answers a next state that differs in the response only. -/
@[simp] theorem respond_eq (st : Status) (r : Word) (s : State) :
    respond st r s = .next ⟨s.block, s.inputs, some ⟨st, r⟩⟩ := rfl

/-- With a tag held, a tag-dependent command runs. -/
theorem needTag_of_valid (f : State → Host.Outcome State Fault Refusal) (s : State)
    (h : s.block.tagValid = true) : needTag f s = f s := if_pos h

/-- Without a tag, it answers `NO_TAG` and nothing else happens (60_exceptions.md R104). -/
theorem needTag_of_invalid (f : State → Host.Outcome State Fault Refusal) (s : State)
    (h : s.block.tagValid = false) :
    needTag f s = .next ⟨s.block, s.inputs, some ⟨.noTag, 0⟩⟩ := by
  simp [needTag, h]

/-- `absorb` answers a next state with the fold of the bytes in `crc` and its checksum as result. -/
@[simp] theorem absorb_eq (m : List Byte) (s : State) :
    absorb m s = .next
      ⟨{ s.block with crc := crcBytes s.block.crc m }, s.inputs,
        some ⟨.ok, crcOut (crcBytes s.block.crc m)⟩⟩ := rfl

/-- The answer to an illegal word changes the response only. -/
@[simp] theorem illegalCommand_eq (s : State) :
    illegalCommand s = .next ⟨s.block, s.inputs, some ⟨.illegalCmd, 0⟩⟩ := rfl

/-- A command's next block and response are functions of the block alone; it leaves the inputs and reads
neither them nor the response before. -/
theorem exec_of_block (i : Instr) (b : Block) :
    ∃ b' r, ∀ ins q, exec i ⟨b, ins, q⟩ = .next ⟨b', ins, some r⟩ := by
  cases i with
  | typeLoad w =>
    by_cases h : tagOk w = true <;> exact ⟨_, _, fun _ _ => by simp [exec, execTypeLoad, h, setTag, clearTag]; exact ⟨rfl, rfl⟩⟩
  | typeEq w =>
    cases hv : b.tagValid with
    | false => exact ⟨_, _, fun _ _ => by simp [exec, execTypeEq, needTag, hv]; exact ⟨rfl, rfl⟩⟩
    | true =>
      by_cases h : w = tagWord b.tag <;>
        exact ⟨_, _, fun _ _ => by simp [exec, execTypeEq, needTag, hv, h]; exact ⟨rfl, rfl⟩⟩
  | crcCheck e =>
    by_cases h : crcOut b.crc = e <;> exact ⟨_, _, fun _ _ => by simp [exec, execCrcCheck, h]; exact ⟨rfl, rfl⟩⟩
  | typeRead =>
    cases hv : b.tagValid <;> exact ⟨_, _, fun _ _ => by simp [exec, execTypeRead, needTag, hv]; exact ⟨rfl, rfl⟩⟩
  | typeProps =>
    cases hv : b.tagValid <;> exact ⟨_, _, fun _ _ => by simp [exec, execTypeProps, needTag, hv]; exact ⟨rfl, rfl⟩⟩
  | crcTag =>
    cases hv : b.tagValid <;> exact ⟨_, _, fun _ _ => by simp [exec, execCrcTag, needTag, hv]; exact ⟨rfl, rfl⟩⟩
  | nop => exact ⟨_, _, fun _ _ => rfl⟩
  | crcInit => exact ⟨_, _, fun _ _ => by simp [exec, execCrcInit, setCrc]; exact ⟨rfl, rfl⟩⟩
  | crcByte c => exact ⟨_, _, fun _ _ => by simp [exec, execCrcByte]; exact ⟨rfl, rfl⟩⟩
  | crcRead => exact ⟨_, _, fun _ _ => by simp [exec, execCrcRead]; exact ⟨rfl, rfl⟩⟩

/-- The same of any command word, legal or not. -/
theorem execWord_of_block (w : CmdWord) (b : Block) :
    ∃ b' r, ∀ ins q, execWord w ⟨b, ins, q⟩ = .next ⟨b', ins, some r⟩ := by
  unfold execWord
  cases decode w with
  | ok i => exact exec_of_block i b
  | error e => exact ⟨b, _, fun _ _ => rfl⟩

/-- One step for each thing the pins can say. -/
theorem step_of_reset (s : State) (h : samplePins (currentPins s) = .reset) :
    step s = .next ⟨resetBlock, s.inputs.tail, none⟩ := by
  simp [step, cycle, h, resetState, takeEdge]

theorem step_of_idle (s : State) (h : samplePins (currentPins s) = .idle) :
    step s = .next ⟨s.block, s.inputs.tail, none⟩ := by
  simp [step, cycle, h, takeEdge]

theorem step_of_command (s : State) (w : CmdWord) (h : samplePins (currentPins s) = .command w) :
    step s = execWord w ⟨s.block, s.inputs.tail, none⟩ := by
  simp [step, cycle, h, takeEdge]

/-- The pins say reset exactly when `rst` is 1. -/
@[simp] theorem samplePins_reset_iff (p : CycleIn) : samplePins p = .reset ↔ p.rst = true := by
  unfold samplePins; split <;> [simp_all; split <;> simp_all]

/-- The pins say a command exactly when `cmd_valid` is 1 and `rst` is 0. -/
@[simp] theorem samplePins_command_iff (p : CycleIn) (w : CmdWord) :
    samplePins p = .command w ↔ p.rst = false ∧ p.cmdValid = true ∧ p.cmd = w := by
  unfold samplePins; split <;> [simp_all; split <;> simp_all]

/-- The pins say idle exactly when both are 0. -/
@[simp] theorem samplePins_idle_iff (p : CycleIn) :
    samplePins p = .idle ↔ p.rst = false ∧ p.cmdValid = false := by
  unfold samplePins; split <;> [simp_all; split <;> simp_all]

end Sys2Proof.Machine
end

