-- ==== Sys2Proof/Laws/PerInstr.lean ====
section
/-! SUPPORT. Families of statements about every command as syntax. -/

/-- The word of a command carries its opcode in bits 39:32 and its operand in bits 31:0, and its operand is
well formed (30_encoding.md R45, R47). -/
def Sys2Proof.Laws.EncodingFields.Statement (i : Sys2Proof.Instr) : Prop :=
  Sys2Proof.opcodeField (Sys2Proof.encode i) = Sys2Proof.opcodeOf i ∧
  Sys2Proof.operandField (Sys2Proof.encode i) = Sys2Proof.operandOf i ∧
  Sys2Proof.wellFormed i = true

namespace Sys2Proof.Laws.EncodingFields

/-- The operand of form `BYTE` passes the check. -/
theorem byte_wellFormed (b : Byte) : operandWellFormed .byte (b.setWidth 32) = true := by
  simp [operandWellFormed, mustBeZero]

/-- The two fields of any command's word. -/
theorem fields (i : Instr) :
    opcodeField (encode i) = opcodeOf i ∧ operandField (encode i) = operandOf i := by
  simp [encode]

theorem nop : Statement .nop := ⟨(fields _).1, (fields _).2, rfl⟩
theorem typeLoad (w : Word) : Statement (.typeLoad w) :=
  ⟨(fields _).1, (fields _).2, by simp [wellFormed, operandWellFormed, formOf, mustBeZero]⟩
theorem typeRead : Statement .typeRead := ⟨(fields _).1, (fields _).2, rfl⟩
theorem typeProps : Statement .typeProps := ⟨(fields _).1, (fields _).2, rfl⟩
theorem typeEq (w : Word) : Statement (.typeEq w) :=
  ⟨(fields _).1, (fields _).2, by simp [wellFormed, operandWellFormed, formOf, mustBeZero]⟩
theorem crcInit : Statement .crcInit := ⟨(fields _).1, (fields _).2, rfl⟩
theorem crcByte (b : Byte) : Statement (.crcByte b) := ⟨(fields _).1, (fields _).2, byte_wellFormed b⟩
theorem crcTag : Statement .crcTag := ⟨(fields _).1, (fields _).2, rfl⟩
theorem crcRead : Statement .crcRead := ⟨(fields _).1, (fields _).2, rfl⟩
theorem crcCheck (e : Word) : Statement (.crcCheck e) :=
  ⟨(fields _).1, (fields _).2, by simp [wellFormed, operandWellFormed, formOf, mustBeZero]⟩

end Sys2Proof.Laws.EncodingFields
end

