-- ==== Sys2Proof/Laws/Sequence.lean ====
section
/-! SUPPORT. Sequences of commands and cycles: how a run composes, and that a step always answers. -/

namespace Sys2Proof.Machine

/-- Whatever the pins say, a step answers a next state and uses up the pins of its edge. -/
theorem step_next (s : State) : ∃ b q, step s = .next ⟨b, s.inputs.tail, q⟩ := by
  cases h : samplePins (currentPins s) with
  | reset => exact ⟨_, _, step_of_reset s h⟩
  | idle => exact ⟨_, _, step_of_idle s h⟩
  | command w =>
    obtain ⟨b, r, e⟩ := execWord_of_block w s.block
    exact ⟨_, _, (step_of_command s w h).trans (e _ _)⟩

@[simp] theorem execAll_nil (s : State) : execAll [] s = .next s := rfl
@[simp] theorem runCycles_zero (s : State) : runCycles 0 s = .next s := rfl

/-- A sequence runs its head, then its tail from the state the head left. -/
theorem execAll_cons {i : Instr} {is : List Instr} {s t : State} (h : exec i s = .next t) :
    execAll (i :: is) s = execAll is t := by
  rw [execAll, h]

theorem runCycles_succ {n : Nat} {s t : State} (h : step s = .next t) :
    runCycles (n + 1) s = runCycles n t := by
  rw [runCycles, h]

/-- Two sequences one after the other. -/
theorem execAll_append (is js : List Instr) {s t : State} (h : execAll is s = .next t) :
    execAll (is ++ js) s = execAll js t := by
  induction is generalizing s with
  | nil => cases h; rfl
  | cons i is ih =>
    obtain ⟨b, r, e⟩ := exec_of_block i s.block
    have e := e s.inputs s.rsp
    rw [List.cons_append, execAll_cons e]
    rw [execAll_cons e] at h
    exact ih h

/-- The bytes of a message, one `CRC_BYTE` each, leave the fold of the message in `crc` and nothing else changed
but the response. -/
theorem execAll_crcByte (m : List Byte) (s : State) :
    ∃ q, execAll (m.map .crcByte) s =
      .next ⟨{ s.block with crc := crcBytes s.block.crc m }, s.inputs, q⟩ := by
  induction m generalizing s with
  | nil => exact ⟨s.rsp, rfl⟩
  | cons b m ih =>
    exact ih ⟨{ s.block with crc := crcUpdate s.block.crc b }, s.inputs,
      some ⟨.ok, crcOut (crcUpdate s.block.crc b)⟩⟩

end Sys2Proof.Machine
end

