-- ==== Sys2Proof/Laws/Stream.lean ====
section
/-! SUPPORT. What every command does to `crc`, in terms of the bytes it absorbs. -/

namespace Sys2Proof.Machine

/-- A command other than `CRC_INIT` leaves in `crc` the fold of the bytes it absorbs (41_crc.md R89). -/
theorem exec_crc {i : Instr} {s t : State} (hi : i ≠ .crcInit) (h : exec i s = .next t) :
    t.block.crc = crcBytes s.block.crc (absorbedBy s.block i) := by
  cases i with
  | crcInit => exact absurd rfl hi
  | nop => cases h; rfl
  | crcByte b => cases h; rfl
  | crcRead => cases h; rfl
  | typeLoad w =>
    simp only [exec, execTypeLoad] at h
    split at h <;> cases h <;> rfl
  | crcCheck e =>
    simp only [exec, execCrcCheck] at h
    split at h <;> cases h <;> rfl
  | typeRead =>
    simp only [exec, execTypeRead, needTag] at h
    split at h <;> cases h <;> rfl
  | typeProps =>
    simp only [exec, execTypeProps, needTag] at h
    split at h <;> cases h <;> rfl
  | typeEq w =>
    simp only [exec, execTypeEq, needTag] at h
    split at h
    · split at h <;> cases h <;> rfl
    · cases h; rfl
  | crcTag =>
    simp only [exec, execCrcTag, needTag] at h
    split at h <;> cases h <;> simp [absorbedBy, *]

/-- The bytes of a list are those of its head, then those of its tail from the state the head left. -/
theorem absorbedByAll_cons {i : Instr} {is : List Instr} {s t : State} (h : exec i s = .next t) :
    absorbedByAll (i :: is) s = absorbedBy s.block i ++ absorbedByAll is t := by
  rw [absorbedByAll, h]

end Sys2Proof.Machine
end

