-- ==== Sys2Proof/Tests/Slice0.lean ====
section
/-! SUPPORT. The model's own tests, with expected values from 95_test_vectors.md and 96_crc_vectors.md, and a
witness for the hypotheses of every statement that has some. -/

namespace Sys2Proof.Tests

open Sys2Proof Sys2Proof.Machine Sys2Proof.Safety

/-- A state from its six architectural values, with nothing on the pins. -/
def stateOf (crc : Word) (b0 b1 b2 b3 : Byte) (valid : Bool) : State :=
  { block := { crc := crc, tag := ⟨b0, b1, b2, b3⟩, tagValid := valid }, inputs := [], rsp := none }

/-- Block and response of a next state. -/
def seen : Host.Outcome State Fault Refusal → Option (Block × Option Response)
  | .next t => some (t.block, t.rsp)
  | .fault _ => none
  | .refused _ => none

/-- One step with a command word on the port. -/
def run (w : CmdWord) (s : State) : Option (Block × Option Response) :=
  seen (step (presentPins (commandPins w) s))

/-- What `run` shows: the state after and the response. -/
def shows (t : State) (st : Status) (result : Word) : Option (Block × Option Response) :=
  some (t.block, some ⟨st, result⟩)

/-- A state holding "RuSt" after one byte 0x31 (V50), one holding "AZaz" (V22), and one without a tag (P3). -/
def rust : State := stateOf 0x7C231048 0x52 0x75 0x53 0x74 true
def azaz : State := stateOf 0xFFFFFFFF 0x41 0x5A 0x61 0x7A true
def noTag : State := stateOf 0x7C231048 0x00 0x00 0x00 0x00 false

/-! ### Well-formedness and decoding -/

theorem test_none_with_operand_refused : operandWellFormed .none 0x00000001 = false := by decide
theorem test_none_with_bit31_refused : operandWellFormed .none 0x80000000 = false := by decide
theorem test_byte_with_bit8_refused : operandWellFormed .byte 0x00000131 = false := by decide
theorem test_byte_accepted : operandWellFormed .byte 0x000000FF = true := by decide
theorem test_word_accepted : operandWellFormed .word 0xFFFFFFFF = true := by decide

/- The word of each row of 30_encoding.md R49, written out as opcode and operand bits. -/
theorem test_decode_nop : decodeTableWord 40 0b0000000000000000000000000000000000000000 = some .nop := by decide
theorem test_decode_typeLoad :
    decodeTableWord 40 0b0001000001010010011101010101001101110100 = some (.typeLoad 0x52755374) := by decide
theorem test_decode_typeRead : decodeTableWord 40 0b0001000100000000000000000000000000000000 = some .typeRead := by decide
theorem test_decode_typeProps : decodeTableWord 40 0b0001001000000000000000000000000000000000 = some .typeProps := by decide
theorem test_decode_typeEq :
    decodeTableWord 40 0b0001001101000001010110100110000101111011 = some (.typeEq 0x415A617B) := by decide
theorem test_decode_crcInit : decodeTableWord 40 0b0010000000000000000000000000000000000000 = some .crcInit := by decide
theorem test_decode_crcByte : decodeTableWord 40 0b0010000100000000000000000000000000110001 = some (.crcByte 0x31) := by decide
theorem test_decode_crcTag : decodeTableWord 40 0b0010001000000000000000000000000000000000 = some .crcTag := by decide
theorem test_decode_crcRead : decodeTableWord 40 0b0010001100000000000000000000000000000000 = some .crcRead := by decide
theorem test_decode_crcCheck :
    decodeTableWord 40 0b0010010010101110010000100110000010000010 = some (.crcCheck 0xAE426082) := by decide

/- V50: illegal words, refused by name. -/
theorem test_decode_undefined_opcode : decode 0x0100000000 = .error (.undefinedOpcode 0x01) := by decide
theorem test_decode_all_ones : decode 0xFFFFFFFFFF = .error (.undefinedOpcode 0xFF) := by decide
theorem test_decode_stray_operand : decode 0x1280000000 = .error (.strayOperandBits 0x12) := by decide
theorem test_decode_stray_byte : decode 0x2100000100 = .error (.strayOperandBits 0x21) := by decide

/- No two rows of the opcode map share a word. -/
theorem test_rows_do_not_overlap :
    opcodeMap.Pairwise (fun r r' => r.pattern &&& r.mask &&& r'.mask ≠ r'.pattern &&& r.mask &&& r'.mask) := by
  decide

/-! ### The commands -/

/- V50 -/
theorem test_nop : run 0x0000000000 rust = shows rust .ok 0x00000000 := by decide
/- V1 -/
theorem test_typeLoad : run 0x1052755374 State.reset =
    shows (stateOf 0xFFFFFFFF 0x52 0x75 0x53 0x74 true) .ok 0x0000000D := by decide
/- V2, over a held tag -/
theorem test_typeLoad_refused : run 0x1052753174 rust = shows noTag .typeParseError 0x00000000 := by decide
/- V22, lines 5 and 15 -/
theorem test_typeRead : run 0x1100000000 azaz = shows azaz .ok 0x415A617A := by decide
theorem test_typeRead_noTag : run 0x1100000000 noTag = shows noTag .noTag 0x00000000 := by decide
/- V22, lines 6 and 16 -/
theorem test_typeProps : run 0x1200000000 azaz = shows azaz .ok 0x0000000B := by decide
theorem test_typeProps_noTag : run 0x1200000000 noTag = shows noTag .noTag 0x00000000 := by decide
/- V22, lines 7 and 9 -/
theorem test_typeEq_same : run 0x13415A617A azaz = shows azaz .ok 0x00000001 := by decide
theorem test_typeEq_case_differs : run 0x13615A617A azaz = shows azaz .ok 0x00000000 := by decide
/- P3, line 17 -/
theorem test_crcInit : run 0x2000000000 noTag = shows State.reset .ok 0x00000000 := by decide
/- V50 and P3, line 6 -/
theorem test_crcByte_ff : run 0x21000000FF rust =
    shows (stateOf 0x5579053F 0x52 0x75 0x53 0x74 true) .ok 0xAA86FAC0 := by decide
theorem test_crcByte_31 : run 0x2100000031 (stateOf 0xFFFFFFFF 0x52 0x75 0x53 0x74 true) =
    shows rust .ok 0x83DCEFB7 := by decide
/- P3, line 20; V51 -/
set_option maxRecDepth 100000 in
theorem test_crcTag : run 0x2200000000 (stateOf 0xFFFFFFFF 0x72 0x75 0x73 0x74 true) =
    shows (stateOf 0x1ECD7D5F 0x72 0x75 0x73 0x74 true) .ok 0xE13282A0 := by decide
theorem test_crcTag_noTag : run 0x2200000000 noTag = shows noTag .noTag 0x00000000 := by decide
/- P3, line 12 -/
theorem test_crcRead : run 0x2300000000 noTag = shows noTag .ok 0x83DCEFB7 := by decide
/- V50; the checksum of the byte 0x31 -/
theorem test_crcCheck_mismatch : run 0x24FFFFFFFF rust = shows rust .crcMismatch 0x83DCEFB7 := by decide
theorem test_crcCheck_match : run 0x2483DCEFB7 rust = shows rust .ok 0x83DCEFB7 := by decide
/- V51 -/
theorem test_illegal_beats_noTag : run 0x1100000001 State.reset = shows State.reset .illegalCmd 0x00000000 := by decide

/-! ### Cycles and ports -/

/- V21, "IEND": a word placed by `withFetchWord` runs in the very next step -/
theorem test_withFetchWord : seen (step (State.reset.withFetchWord 40 0x1049454E44)) =
    shows (stateOf 0xFFFFFFFF 0x49 0x45 0x4E 0x44 true) .ok 0x00000007 := by decide


/- V52, cycle 5: reset wins over a valid command -/
theorem test_reset_wins : seen (step (presentPins ⟨true, true, 0x2100000033⟩ rust)) =
    some (State.reset.block, none) := by decide
/- V52, cycle 4: `cmd` is ignored in an idle cycle -/
theorem test_idle : seen (step (presentPins ⟨false, false, 0x2100000032⟩ rust)) = some (rust.block, none) := by decide
/- V52, cycles 7 and 5: the response port -/
theorem test_rsp_noTag : rspPort (presentPins (commandPins 0x1100000000) State.reset) = 0x300000000 := by decide
theorem test_rsp_reset : rspPort (presentPins ⟨true, true, 0x2100000033⟩ rust) = 0x000000000 := by decide
/- V23, third and last line -/
theorem test_ports : ports (stateOf 0x7C231048 0x72 0x75 0x73 0x74 true) =
    ⟨false, 0, 0x83DCEFB7, 0x72757374, true, false, false, false, true⟩ := by decide
theorem test_ports_noTag : ports (stateOf 0x51BD9F7D 0x00 0x00 0x00 0x00 false) =
    ⟨false, 0, 0xAE426082, 0x00000000, false, false, false, false, false⟩ := by decide

/-! ### The assembler -/

/- 30_encoding.md R54, the notation's examples of 95_test_vectors.md P5 and P2 -/
theorem test_assemble_byte : assembleLine "CRC_BYTE 0x61 ; message 1".toList = .ok (some (.crcByte 0x61)) := by
  decide +kernel
theorem test_assemble_decimal : assembleLine "CRC_BYTE 49".toList = .ok (some (.crcByte 0x31)) := by decide +kernel
theorem test_assemble_word :
    assembleLine "CRC_CHECK 0xA1F1C5CE".toList = .ok (some (.crcCheck 0xA1F1C5CE)) := by decide +kernel
theorem test_assemble_comment_only : assembleLine " ; message 1".toList = .ok none := by decide +kernel
theorem test_assemble_unknown : assembleLine "CRC_DONE".toList = .error .unknownMnemonic := by decide +kernel
/- P3, line 13: a raw word is no line of the notation (log entry 13) -/
theorem test_assemble_raw_word : assembleLine "0x7F00000000 ; undefined opcode".toList = .error .unknownMnemonic := by
  decide +kernel
theorem test_hex_digits : hexDigitValue 'F' = some 15 ∧ hexDigitValue 'f' = some 15 ∧ hexDigitValue 'G' = none ∧
    decDigitValue '9' = some 9 ∧ decDigitValue 'A' = none := by decide
theorem test_assemble_missing_operand : assembleLine "TYPE_LOAD".toList = .error .badOperand := by decide +kernel
/- V3, second line -/
theorem test_textWord : textWord ['r', 'u', 'S', 't'] = some 0x72755374 := by decide

/-! ### Witnesses: each statement's hypotheses can be met -/

/-- A state that accepts a command word, one that is being reset, and one that is idle. -/
def accepts (w : CmdWord) (s : State) : State := presentPins (commandPins w) s
def resetting : State := presentPins ⟨true, true, 0x2100000033⟩ rust
def idle : State := presentPins ⟨false, false, 0x2100000032⟩ rust

theorem resetNow_resetting : ResetNow resetting := rfl
theorem idleNow_idle : IdleNow idle := ⟨rfl, rfl⟩
theorem acceptsNow_accepts (w : CmdWord) (s : State) : AcceptsNow (accepts w s) w := ⟨rfl, rfl, rfl⟩

/-- A state with a tag and a state without one meet the invariant. -/
theorem safe_rust : Safe rust := by unfold Safe BlockInv; decide
theorem safe_noTag : Safe noTag := by unfold Safe BlockInv; decide

theorem witness_ResetStateValues : ResetNow resetting ∧ idle.block ≠ State.reset.block ∧
    (accepts 0x2100000031 State.reset).block = State.reset.block := by
  refine ⟨rfl, ?_, rfl⟩; decide

theorem witness_ResetWinsFromAnyState : ResetNow resetting ∧
    [resetPins, ⟨true, true, 0x2100000033⟩] ≠ [] ∧ ∀ p ∈ [resetPins, ⟨true, true, 0x2100000033⟩], p.rst = true := by
  exact ⟨rfl, by decide, by decide⟩

theorem witness_StepRunsDecodedCommand :
    AcceptsNow (accepts 0x2100000031 rust) 0x2100000031 ∧ decode 0x2100000031 = .ok (.crcByte 0x31) ∧
    decodeTableWord 40 0x2100000031 = some (.crcByte 0x31) :=
  ⟨acceptsNow_accepts _ _, by decide, by decide⟩

theorem witness_CycleIsResetCommandOrIdle :
    ResetNow resetting ∧ AcceptsNow (accepts 0x7F00000000 rust) 0x7F00000000 ∧ IdleNow idle :=
  ⟨rfl, acceptsNow_accepts _ _, idleNow_idle⟩

theorem witness_IdleCyclesDoNotMatter : IdleNow idle ∧
    [commandPins 0x2100000031] =
      [idlePins, commandPins 0x2100000031, idlePins].filter (fun p => p.rst || p.cmdValid) :=
  ⟨idleNow_idle, by decide⟩

theorem witness_NothingHangs : AcceptsNow (accepts 0xFFFFFFFFFF rust) 0xFFFFFFFFFF := acceptsNow_accepts _ _

theorem witness_SameCommandSameResult :
    (accepts 0x2100000031 rust).block = { accepts 0x2100000031 rust with rsp := some ⟨.ok, 0x00000000⟩ }.block ∧
    currentPins (accepts 0x2100000031 rust) =
      currentPins { accepts 0x2100000031 rust with rsp := some ⟨.ok, 0x00000000⟩ } := ⟨rfl, rfl⟩

theorem witness_CommandsTakeEffectInCycleOrder : [Instr.crcInit, .crcByte 0x31] ≠ [] := by decide

theorem witness_StateInvariantKept : Safe rust ∧ Safe noTag ∧ ResetNow resetting :=
  ⟨safe_rust, safe_noTag, rfl⟩

theorem witness_TagValidWrittenByTypeLoadAndReset :
    ResetNow resetting ∧
    (AcceptsNow (accepts 0x1052755374 noTag) 0x1052755374 ∧ decode 0x1052755374 = .ok (.typeLoad 0x52755374)) ∧
    (¬ ResetNow idle ∧ ∀ w x, AcceptsNow idle w → decode w ≠ .ok (.typeLoad x)) :=
  ⟨rfl, ⟨acceptsNow_accepts _ _, by decide⟩, by simp [ResetNow, idle, currentPins, presentPins],
    fun _ _ h => absurd h.2.1 (by decide)⟩

theorem witness_OnlyNamedCommandsWriteState :
    (∃ t, step (accepts 0x2100000031 rust) = .next t ∧ t.block.crc ≠ rust.block.crc) ∧
    (∃ t, step (accepts 0x1061614141 rust) = .next t ∧ t.block.tag ≠ rust.block.tag) ∧
    (∃ t, step (accepts 0x1000000000 rust) = .next t ∧ t.block.tagValid ≠ rust.block.tagValid) :=
  ⟨⟨_, rfl, by decide⟩, ⟨_, rfl, by decide⟩, ⟨_, rfl, by decide⟩⟩

theorem witness_PortsFromState :
    (Safe rust ∧ rust.block.tagValid = true) ∧ (Safe noTag ∧ noTag.block.tagValid = false) :=
  ⟨⟨safe_rust, rfl⟩, safe_noTag, rfl⟩

theorem witness_ResponsePorts :
    AcceptsNow (accepts 0x1100000000 State.reset) 0x1100000000 ∧
    (ports (accepts 0x1100000000 State.reset)).rspValid = true ∧ (ports resetting).rspValid = false ∧
    (ports idle).rspValid = false ∧ idle.block = resetting.block := ⟨acceptsNow_accepts _ _, rfl, rfl, rfl, rfl⟩

theorem witness_ResponseNowPortsNextCycle :
    AcceptsNow (accepts (encode (.crcByte 0x31)) rust) (encode (.crcByte 0x31)) ∧
    ∃ t, step (accepts (encode (.crcByte 0x31)) rust) = .next t ∧ IdleNow t ∧ rust.block ≠ t.block ∧
      { t with rsp := none }.block = t.block :=
  ⟨acceptsNow_accepts _ _, _, rfl, ⟨rfl, rfl⟩, by decide, rfl⟩

theorem witness_DecodeFollowsOpcodeMap : decode 0x2200000000 = .ok .crcTag ∧
    decode 0x2200000100 = .error (.strayOperandBits 0x22) := by decide

theorem witness_DecodeOfEncode :
    wellFormed (.crcByte 0xFF) = true ∧ wellFormed (.typeLoad 0xFFFFFFFF) = true ∧ wellFormed .nop = true := by decide

theorem witness_EncodeOfDecode : decode 0x21000000FF = .ok (.crcByte 0xFF) := by decide

theorem witness_IllegalWordsAnswered :
    AcceptsNow (accepts 0x2100000131 rust) 0x2100000131 ∧ decode 0x2100000131 = .error (.strayOperandBits 0x21) :=
  ⟨acceptsNow_accepts _ _, by decide⟩

theorem witness_ResponseWordLayout :
    (run 0x1052753174 rust).map (fun x => x.2.map (·.status)) = some (some .typeParseError) ∧
    (run 0x1100000000 noTag).map (fun x => x.2.map (·.status)) = some (some .noTag) ∧
    (run 0x2500000000 rust).map (fun x => x.2.map (·.status)) = some (some .illegalCmd) ∧
    AcceptsNow (accepts 0x2500000000 rust) 0x2500000000 :=
  ⟨by decide, by decide, by decide, acceptsNow_accepts _ _⟩

theorem witness_NopDoesNothing : (0x00000001 : Word) ≠ 0 := by decide

theorem witness_TypeLoadConstructsOrClears :
    (isLetter (BitVec.extractLsb' 24 8 0x415A617A#32) = true ∧ isLetter (BitVec.extractLsb' 16 8 0x415A617A#32) = true ∧
      isLetter (BitVec.extractLsb' 8 8 0x415A617A#32) = true ∧ isLetter (BitVec.extractLsb' 0 8 0x415A617A#32) = true) ∧
    ¬ (isLetter (BitVec.extractLsb' 24 8 0x415A617B#32) = true ∧ isLetter (BitVec.extractLsb' 16 8 0x415A617B#32) = true ∧
      isLetter (BitVec.extractLsb' 8 8 0x415A617B#32) = true ∧ isLetter (BitVec.extractLsb' 0 8 0x415A617B#32) = true) := by
  decide

theorem witness_TypeReadReturnsTagBytes :
    rust.block.tagValid = true ∧ noTag.block.tagValid = false ∧ Safe noTag := ⟨rfl, rfl, safe_noTag⟩

theorem witness_TypePropsReturnsProperties : rust.block.tagValid = true ∧ noTag.block.tagValid = false := ⟨rfl, rfl⟩

theorem witness_TypeEqComparesFourBytes :
    (rust.block.tagValid = true ∧ (0x52755374 : Word) = tagWord rust.block.tag) ∧
    (rust.block.tagValid = true ∧ (0x72755374 : Word) ≠ tagWord rust.block.tag) ∧ noTag.block.tagValid = false ∧
    (Safe rust ∧ rust.block.tagValid = true ∧ tagOk 0x00000000 = false) :=
  ⟨⟨rfl, by decide⟩, ⟨rfl, by decide⟩, rfl, safe_rust, rfl, by decide⟩

theorem witness_CrcInitStartsMessage : (accepts 0x2000000000 State.reset).block = State.reset.block := rfl

theorem witness_CrcByteAbsorbsByte :
    BitVec.extractLsb' 8 24 0xFFFFFFFF#32 = BitVec.extractLsb' 8 24 0xFFFFFF00#32 ∧
    BitVec.extractLsb' 0 8 0xFFFFFFFF#32 ^^^ 0x00#8 = BitVec.extractLsb' 0 8 0xFFFFFF00#32 ^^^ 0xFF#8 := by decide

theorem witness_CrcTagAbsorbsTagBytes : rust.block.tagValid = true ∧ noTag.block.tagValid = false := ⟨rfl, rfl⟩

theorem witness_CrcReadReturnsChecksum : (accepts 0x2300000000 State.reset).block = State.reset.block := rfl

theorem witness_CrcCheckComparesChecksum :
    rust.block.crc ^^^ 0xFFFFFFFF = 0x83DCEFB7 ∧ rust.block.crc ^^^ 0xFFFFFFFF ≠ 0x83DCEFB6 := by decide

/-- Each failing status is answered somewhere, and `OK` too. -/
theorem witness_statuses :
    run 0x1052753174 rust = shows noTag .typeParseError 0x00000000 ∧
    run 0x24FFFFFFFF rust = shows rust .crcMismatch 0x83DCEFB7 ∧
    run 0x1300000000 noTag = shows noTag .noTag 0x00000000 ∧
    run 0x2500000000 rust = shows rust .illegalCmd 0x00000000 ∧
    run 0x2300000000 rust = shows rust .ok 0x83DCEFB7 := by decide

theorem witness_StatusOrigins : run 0x1052753174 rust = shows noTag .typeParseError 0x00000000 ∧
    run 0x24FFFFFFFF rust = shows rust .crcMismatch 0x83DCEFB7 ∧
    run 0x1300000000 noTag = shows noTag .noTag 0x00000000 ∧
    run 0x2500000000 rust = shows rust .illegalCmd 0x00000000 :=
  ⟨witness_statuses.1, witness_statuses.2.1, witness_statuses.2.2.1, witness_statuses.2.2.2.1⟩

theorem witness_StatusPriority : decode 0x1100000001 = .error (.strayOperandBits 0x11) ∧
    (decode 0x1100000000 = .ok .typeRead ∧ NeedsTag .typeRead ∧ noTag.block.tagValid = false) ∧
    decode 0x1052753174 = .ok (.typeLoad 0x52753174) ∧ decode 0x24FFFFFFFF = .ok (.crcCheck 0xFFFFFFFF) ∧
    (decode 0x2300000000 = .ok .crcRead ∧ ¬ NeedsTag .crcRead ∧ ∀ x, Instr.crcRead ≠ .typeLoad x) ∧
    (decode 0x1100000000 = .ok .typeRead ∧ NeedsTag .typeRead ∧ rust.block.tagValid = true) ∧ ResetNow resetting :=
  ⟨by decide, ⟨by decide, .inl rfl, rfl⟩, by decide, by decide, ⟨by decide, by simp [NeedsTag], by simp⟩,
    ⟨by decide, .inl rfl, rfl⟩, rfl⟩

theorem witness_FailureEffects : Safe rust ∧ Safe noTag ∧
    run 0x1052753174 rust = shows noTag .typeParseError 0x00000000 ∧
    run 0x24FFFFFFFF rust = shows rust .crcMismatch 0x83DCEFB7 ∧
    run 0x1300000000 noTag = shows noTag .noTag 0x00000000 ∧
    run 0x2500000000 rust = shows rust .illegalCmd 0x00000000 :=
  ⟨safe_rust, safe_noTag, witness_StatusOrigins⟩

theorem witness_TypeParseErrorCause :
    (∃ t, exec (.typeLoad 0x52753174) rust = .next t ∧ t.rsp = some ⟨.typeParseError, 0x00000000⟩) ∧
    ['R', 'u', 'S'].length ≠ 4 ∧ ['R', 'u', 'S', 't', '!'].length ≠ 4 := ⟨⟨_, rfl, rfl⟩, by decide, by decide⟩

theorem witness_CrcMismatchCause :
    ∃ t, exec (.crcCheck 0xFFFFFFFF) rust = .next t ∧ t.rsp = some ⟨.crcMismatch, 0x83DCEFB7⟩ := ⟨_, rfl, by decide⟩

theorem witness_NoTagCause : NeedsTag .crcTag ∧ NeedsTag (.typeEq 0x00000000) ∧ noTag.block.tagValid = false :=
  ⟨by simp [NeedsTag], by simp [NeedsTag], rfl⟩

theorem witness_LetterRanges : BitVec.getLsbD 0xC1#8 7 = true ∧
    0x30 ≤ BitVec.toNat 0x30#8 ∧ BitVec.toNat 0x39#8 ≤ 0x39 := by decide

theorem witness_PropertiesAreLetterCase : tagOk 0x41616141 = true ∧ tagOk 0x7A5A5A7A = true := by decide

theorem witness_BitFiveFlipsOneProperty : 0 < 4 ∧ 3 < 4 ∧ tagOk 0x52755374 = true := by decide

theorem witness_LoadDeterminesLaterAnswers :
    tagOk 0x52755374 = true ∧ tagOk 0x52753174 = false ∧ NeedsTag .typeProps :=
  ⟨by decide, by decide, by simp [NeedsTag]⟩

theorem witness_UnitsShareOnlyCrcTag :
    OfChunkTypeUnit .typeRead ∧ OfCrcUnit .crcTag ∧ (OfCrcUnit (.crcByte 0x31) ∧ Instr.crcByte 0x31 ≠ .crcTag) ∧
    rust.block.crc = noTag.block.crc ∧ rust.block.tag ≠ noTag.block.tag ∧
    azaz.block.tag = { azaz with block := { azaz.block with crc := 0x00000000 } }.block.tag ∧
    azaz.block.tagValid = { azaz with block := { azaz.block with crc := 0x00000000 } }.block.tagValid :=
  ⟨by simp [OfChunkTypeUnit], by simp [OfCrcUnit], ⟨by simp [OfCrcUnit], by simp⟩, by decide, by decide, rfl, rfl⟩

theorem witness_RepeatableCommands :
    WritesNothing .nop ∧ WritesNothing (.crcCheck 0xFFFFFFFF) ∧ [Instr.crcRead] ≠ [] :=
  ⟨by simp [WritesNothing], by simp [WritesNothing], by decide⟩

/-- The function the rule describes meets the hypothesis: it is `crcStep`. -/
theorem witness_CrcUpdateIsEightSteps : ∃ f : Word → Word,
    ∀ c, f c = if c.getLsbD 0 = true then (c >>> 1) ^^^ 0xEDB88320 else c >>> 1 := ⟨_, fun _ => rfl⟩

theorem witness_OneChangedByteIsDetected : (0x6F : Byte) ≠ 0xEF := by decide

theorem witness_CrcResultIsNextCrcOut :
    (OfCrcUnit .crcRead ∧ AcceptsNow (accepts (encode .crcRead) rust) (encode .crcRead)) ∧
    (OfCrcUnit .crcTag ∧ AcceptsNow (accepts (encode .crcTag) noTag) (encode .crcTag)) ∧
    run (encode .crcTag) noTag = shows noTag .noTag 0x00000000 ∧
    run (encode (.crcCheck 0xFFFFFFFF)) rust = shows rust .crcMismatch 0x83DCEFB7 :=
  ⟨⟨by simp [OfCrcUnit], acceptsNow_accepts _ _⟩, ⟨by simp [OfCrcUnit], acceptsNow_accepts _ _⟩, by decide, by decide⟩

theorem witness_ChunkChecksumCoversTypeAndPayload : tagOk 0x74655374 = true ∧ ∃ v : Word,
    v = crc32 ([BitVec.extractLsb' 24 8 0x74655374#32, BitVec.extractLsb' 16 8 0x74655374#32,
      BitVec.extractLsb' 8 8 0x74655374#32, BitVec.extractLsb' 0 8 0x74655374#32] ++ [0x68, 0x65, 0x6C, 0x6C, 0x6F]) :=
  ⟨by decide, _, rfl⟩

theorem witness_CrcBytesBigEndian : crcRecordBytes 0xAE426082 = [0xAE, 0x42, 0x60, 0x82] := by decide

theorem witness_AssemblerInvertsPrinting : tagOk 0x74655374 = true := by decide

theorem witness_PseudoCommandExpansions :
    textWord ['t', 'e', 'S', 't'] = some 0x74655374 ∧ textWord ['R', 'u', 'S'] = none ∧
    (∀ c ∈ ['h', 'i'], c.toNat ≤ 0xFF) ∧ (∃ c ∈ ['h', Char.ofNat 0x100], 0xFF < c.toNat) :=
  ⟨by decide, by decide, by simp, Char.ofNat 0x100, by simp, by simp⟩

theorem witness_TextConstructor :
    ('R'.toNat ≤ 0xFF ∧ 'u'.toNat ≤ 0xFF ∧ 'S'.toNat ≤ 0xFF ∧ (Char.ofNat 0xFF).toNat ≤ 0xFF) ∧
    textWord ['R', 'u', '1', 't'] = some 0x52753174 ∧ tagOk 0x52753174 = false ∧ ['R', 'u', 'S'].length ≠ 4 ∧
    (∃ c ∈ ['R', 'u', 'S', Char.ofNat 0x100], 0xFF < c.toNat) :=
  ⟨by simp, by decide, by decide, by decide, Char.ofNat 0x100, by simp, by simp⟩

/-- Bytes cut by a read, an idle cycle and an equality test; the tag loaded on the way is what `CRC_TAG` absorbs. -/
theorem witness_MessageMayBeInterleaved :
    (.crcInit ∉ [Instr.crcByte 0x31, .crcRead, .typeEq 0x00000000, .crcByte 0x32]) ∧
    (∀ p ∈ [commandPins 0x2100000031, commandPins 0x2300000000, idlePins, commandPins 0x1300000000,
      commandPins 0x2100000032], p.rst = false) ∧
    [commandPins 0x2100000031, commandPins 0x2300000000, idlePins, commandPins 0x1300000000,
        commandPins 0x2100000032].filter (fun p => p.cmdValid) =
      [Instr.crcByte 0x31, .crcRead, .typeEq 0x00000000, .crcByte 0x32].map (fun i => commandPins (encode i)) ∧
    absorbedByAll [.crcByte 0x31, .typeLoad 0x72757374, .crcTag] rust = [0x31, 0x72, 0x75, 0x73, 0x74] ∧
    (WritesNothing .crcRead ∧ OfChunkTypeUnit (.typeLoad 0x52755374)) :=
  ⟨by decide, by decide, by decide, by decide, by simp [WritesNothing], by simp [OfChunkTypeUnit]⟩

end Sys2Proof.Tests
end

section
/-! PROOFS. What one cycle does, by what the pins say (10_state.md R22). -/

namespace Sys2Proof.Proofs

open Sys2Proof.Machine Sys2Proof.Safety

/-- Every edge resets, accepts a word or is idle. -/
theorem reset_or_accepts_or_idle (s : State) : ResetNow s ∨ (∃ w, AcceptsNow s w) ∨ IdleNow s := by
  cases hr : (currentPins s).rst with
  | true => exact .inl hr
  | false =>
    cases hv : (currentPins s).cmdValid with
    | true => exact .inr (.inl ⟨_, hr, hv, rfl⟩)
    | false => exact .inr (.inr ⟨hr, hv⟩)

theorem step_of_resetNow {s : State} (h : ResetNow s) :
    step s = .next ⟨resetBlock, s.inputs.tail, none⟩ :=
  step_of_reset s ((samplePins_reset_iff _).2 h)

theorem step_of_acceptsNow {s : State} {w : CmdWord} (h : AcceptsNow s w) :
    step s = execWord w ⟨s.block, s.inputs.tail, none⟩ :=
  step_of_command s w ((samplePins_command_iff _ w).2 h)

theorem step_of_idleNow {s : State} (h : IdleNow s) :
    step s = .next ⟨s.block, s.inputs.tail, none⟩ :=
  step_of_idle s ((samplePins_idle_iff _).2 h)

/-- Every word in every state has a next state and a response (10_state.md R22). -/
theorem execWord_answers (w : CmdWord) (s : State) :
    ∃ t r, execWord w s = .next t ∧ t.rsp = some r := by
  obtain ⟨b, r, h⟩ := execWord_of_block w s.block
  exact ⟨_, r, h s.inputs s.rsp, rfl⟩

/-- An accepted word is answered in its cycle. -/
theorem step_answers_of_acceptsNow {s : State} {w : CmdWord} (h : AcceptsNow s w) :
    ∃ t r, step s = .next t ∧ t.rsp = some r := by
  rw [step_of_acceptsNow h]
  exact execWord_answers w _

/-- A cycle that accepts no word gives no response. -/
theorem step_silent_of_not_acceptsNow {s : State} (h : ¬ ∃ w, AcceptsNow s w) :
    ∃ t, step s = .next t ∧ t.rsp = none := by
  obtain hreset | haccepts | hidle := reset_or_accepts_or_idle s
  · exact ⟨_, step_of_resetNow hreset, rfl⟩
  · exact absurd haccepts h
  · exact ⟨_, step_of_idleNow hidle, rfl⟩

end Sys2Proof.Proofs
end

section
/-! PROOFS. The ports `rsp_valid` and `rsp` (10_state.md R20). -/

namespace Sys2Proof.Proofs

open Sys2Proof.Machine Sys2Proof.Safety

/-- `rsp_valid` is 1 exactly when the edge accepts a word. -/
theorem rspValid_iff_acceptsNow (s : State) : (ports s).rspValid = true ↔ ∃ w, AcceptsNow s w := by
  simp [ports, rspValidPort, AcceptsNow, and_comm]

theorem rspValid_of_resetNow {s : State} (h : ResetNow s) : (ports s).rspValid = false := by
  have hrst : (currentPins s).rst = true := h
  simp [ports, rspValidPort, hrst]

theorem rspValid_of_acceptsNow {s : State} {w : CmdWord} (h : AcceptsNow s w) :
    (ports s).rspValid = true :=
  (rspValid_iff_acceptsNow s).2 ⟨w, h⟩

theorem rspValid_of_idleNow {s : State} (h : IdleNow s) : (ports s).rspValid = false := by
  obtain ⟨-, hvalid⟩ := h
  simp [ports, rspValidPort, hvalid]

/-- `rsp` is the word of the response of the step about to be taken. -/
theorem rsp_of_acceptsNow {s t : State} {w : CmdWord} {r : Response} (h : AcceptsNow s w)
    (hstep : step s = .next t) (hr : t.rsp = some r) : (ports s).rsp = responseWord r := by
  have hvalid : rspValidPort s = true := rspValid_of_acceptsNow h
  simp [ports, rspPort, responseNow, hvalid, hstep, hr]

/-- `rsp` is all zeros when `rsp_valid` is 0. -/
theorem rsp_of_not_rspValid {s : State} (h : (ports s).rspValid = false) : (ports s).rsp = 0 := by
  have hvalid : rspValidPort s = false := h
  simp [ports, rspPort, hvalid]

/-- An accepted word's status and result stand on `rsp` in its cycle (10_state.md R22). -/
theorem step_response_on_rsp {s : State} {w : CmdWord} (h : AcceptsNow s w) :
    ∃ t r, step s = .next t ∧ t.rsp = some r ∧ (ports s).rsp = statusCode r.status ++ r.result := by
  obtain ⟨t, r, hstep, hr⟩ := step_answers_of_acceptsNow h
  exact ⟨t, r, hstep, hr, rsp_of_acceptsNow h hstep hr⟩

end Sys2Proof.Proofs
end

section
/-! PROOFS. Who writes the tag registers and `tag_valid` (10_state.md R13, R14): what a command, a word and a cycle
can do to them. -/

namespace Sys2Proof.Proofs

open Sys2Proof.Machine Sys2Proof.Safety

/-- The tag registers and the flag are the same in both blocks. -/
def SameTag (b b' : Block) : Prop := b'.tag = b.tag ∧ b'.tagValid = b.tagValid

theorem SameTag.refl (b : Block) : SameTag b b := ⟨rfl, rfl⟩

/-- A command behind the missing-tag test keeps the tag if it does so by itself. -/
theorem needTag_sameTag {f : State → Host.Outcome State Fault Refusal} {s t : State}
    (hf : f s = .next t → SameTag s.block t.block) (h : needTag f s = .next t) :
    SameTag s.block t.block := by
  cases hv : s.block.tagValid with
  | true => exact hf ((needTag_of_valid f s hv).symm.trans h)
  | false =>
    rw [needTag_of_invalid f s hv] at h
    cases h
    exact .refl _

/-- No command but `TYPE_LOAD` touches the tag or the flag. -/
theorem exec_sameTag {i : Instr} {s t : State} (hi : ∀ x, i ≠ .typeLoad x) (h : exec i s = .next t) :
    SameTag s.block t.block := by
  cases i with
  | typeLoad x => exact absurd rfl (hi x)
  | nop | crcInit | crcByte | crcRead => cases h; exact ⟨rfl, rfl⟩
  | typeRead | typeProps | crcTag => exact needTag_sameTag (fun h => by cases h; exact ⟨rfl, rfl⟩) h
  | typeEq x =>
    simp only [exec, execTypeEq] at h
    refine needTag_sameTag (fun h => ?_) h
    split at h <;> cases h <;> exact .refl _
  | crcCheck e =>
    simp only [exec, execCrcCheck] at h
    split at h <;> cases h <;> exact .refl _

/-- The block after `TYPE_LOAD x`: the new tag if `x` is four letters, else no tag (40_chunktype.md R64). -/
def loadTag (x : Word) (b : Block) : Block :=
  if tagOk x then { b with tag := tagOfWord x, tagValid := true }
  else { b with tag := zeroTag, tagValid := false }

@[simp] theorem loadTag_tagValid (x : Word) (b : Block) : (loadTag x b).tagValid = tagOk x := by
  cases h : tagOk x <;> simp [loadTag, h]

theorem exec_typeLoad_block {x : Word} {s t : State} (h : exec (.typeLoad x) s = .next t) :
    t.block = loadTag x s.block := by
  simp only [exec, execTypeLoad] at h
  cases hx : tagOk x with
  | true | false =>
    rw [hx] at h
    cases h
    simp [loadTag, hx, setTag, clearTag]

/-- No word but one that decodes to `TYPE_LOAD` touches the tag or the flag. -/
theorem execWord_sameTag {w : CmdWord} {s t : State} (hw : ∀ x, decode w ≠ .ok (.typeLoad x))
    (h : execWord w s = .next t) : SameTag s.block t.block := by
  unfold execWord at h
  cases hd : decode w with
  | ok i =>
    rw [hd] at h
    exact exec_sameTag (fun x hi => hw x (hi ▸ hd)) h
  | error e =>
    rw [hd] at h
    cases h
    exact .refl _

theorem execWord_of_decode {w : CmdWord} {i : Instr} (h : decode w = .ok i) (s : State) :
    execWord w s = exec i s := by
  rw [execWord, h]

/-- A cycle that accepts `TYPE_LOAD x` leaves the block of that load. -/
theorem step_typeLoad_block {s t : State} {w : CmdWord} {x : Word} (h : AcceptsNow s w)
    (hd : decode w = .ok (.typeLoad x)) (hstep : step s = .next t) : t.block = loadTag x s.block := by
  rw [step_of_acceptsNow h, execWord_of_decode hd] at hstep
  simpa using exec_typeLoad_block hstep

/-- A cycle that neither resets nor accepts a `TYPE_LOAD` keeps the tag and the flag. -/
theorem step_sameTag {s t : State} (hreset : ¬ ResetNow s)
    (hload : ∀ w x, AcceptsNow s w → decode w ≠ .ok (.typeLoad x)) (hstep : step s = .next t) :
    SameTag s.block t.block := by
  obtain hr | ⟨w, hw⟩ | hidle := reset_or_accepts_or_idle s
  · exact absurd hr hreset
  · rw [step_of_acceptsNow hw] at hstep
    exact (execWord_sameTag (fun x => hload w x hw) hstep :)
  · rw [step_of_idleNow hidle] at hstep
    cases hstep
    exact .refl _

/-- All that a step can do to the tag and the flag. -/
theorem step_tag_cases {s t : State} (hstep : step s = .next t) :
    t.block = resetBlock ∨ (∃ x, t.block = loadTag x s.block) ∨ SameTag s.block t.block := by
  by_cases hreset : ResetNow s
  · rw [step_of_resetNow hreset] at hstep
    cases hstep
    exact .inl rfl
  by_cases hload : ∃ w x, AcceptsNow s w ∧ decode w = .ok (.typeLoad x)
  · obtain ⟨w, x, hw, hd⟩ := hload
    exact .inr (.inl ⟨x, step_typeLoad_block hw hd hstep⟩)
  · exact .inr (.inr (step_sameTag hreset (fun w x hw hd => hload ⟨w, x, hw, hd⟩) hstep))

end Sys2Proof.Proofs
end

section
/-! PROOFS. The state invariant (10_state.md R15). -/

namespace Sys2Proof.Proofs

open Sys2Proof.Machine Sys2Proof.Safety

theorem blockInv_resetBlock : BlockInv resetBlock := by
  simp [BlockInv, resetBlock, zeroTag]

/-- A load leaves four letters and the flag, or four zero bytes and no flag. -/
theorem blockInv_loadTag (x : Word) (b : Block) : BlockInv (loadTag x b) := by
  cases hx : tagOk x with
  | true =>
    have hletters := hx
    simp only [tagOk, tagLetters, Bool.and_eq_true, and_assoc] at hletters
    simpa [BlockInv, loadTag, hx] using hletters
  | false => simp [BlockInv, loadTag, hx, zeroTag]

/-- The invariant speaks of the tag and the flag only. -/
theorem blockInv_of_sameTag {b b' : Block} (h : SameTag b b') (hb : BlockInv b) : BlockInv b' := by
  obtain ⟨htag, hvalid⟩ := h
  simpa only [BlockInv, htag, hvalid] using hb

theorem safe_of_step {s t : State} (hs : Safe s) (hstep : step s = .next t) : Safe t := by
  obtain hreset | ⟨x, hload⟩ | hsame := step_tag_cases hstep
  · rw [Safe, hreset]
    exact blockInv_resetBlock
  · rw [Safe, hload]
    exact blockInv_loadTag x s.block
  · exact blockInv_of_sameTag hsame hs

/-- Settles O10: a step resets, loads or keeps the tag, and each of the three keeps the invariant. -/
theorem stateInvariantKept : Obligations.StateInvariantKept := by
  refine ⟨blockInv_resetBlock, fun s hreset => ?_, fun s hs => ?_⟩
  · exact ⟨_, step_of_resetNow hreset, blockInv_resetBlock⟩
  · obtain ⟨b, q, hstep⟩ := step_next s
    exact ⟨_, hstep, safe_of_step hs hstep⟩

/-- Settles O12: the flag after a reset, after a load, and after any other cycle. -/
theorem tagValidWrittenByTypeLoadAndReset : Obligations.TagValidWrittenByTypeLoadAndReset := by
  intro s
  obtain ⟨b, q, hstep⟩ := step_next s
  refine ⟨_, hstep, fun hreset => ?_, fun w x hw hd => ?_, fun hreset hload => ?_⟩
  · rw [step_of_resetNow hreset] at hstep
    cases hstep
    rfl
  · rw [step_typeLoad_block hw hd hstep, loadTag_tagValid]
  · exact (step_sameTag hreset hload hstep).2

end Sys2Proof.Proofs
end

section
/-! PROOFS. Letter case and the property bit (40_chunktype.md R60, R62). -/

namespace Sys2Proof.Proofs

open Sys2Proof.Machine

theorem isUpper_iff (b : Byte) : isUpper b = true ↔ 0x41 ≤ b.toNat ∧ b.toNat ≤ 0x5A := by
  simp [isUpper, BitVec.le_def]

theorem isLower_iff (b : Byte) : isLower b = true ↔ 0x61 ≤ b.toNat ∧ b.toNat ≤ 0x7A := by
  simp [isLower, BitVec.le_def]

theorem propBit_iff (b : Byte) : propBit b = true ↔ b.toNat / 32 % 2 = 1 := by
  simp [propBit, Config.propBitIndex, BitVec.getLsbD, Nat.testBit_eq_decide_div_mod_eq]

theorem isLetter_iff (b : Byte) : isLetter b = true ↔ isUpper b = true ∨ isLower b = true := by
  simp [isLetter]

/-- Of a letter, the property bit is 1 exactly when it is lowercase. -/
theorem propBit_eq_isLower {b : Byte} (h : isLetter b = true) : propBit b = isLower b := by
  rw [isLetter_iff, isUpper_iff, isLower_iff] at h
  rw [Bool.eq_iff_iff, propBit_iff, isLower_iff]
  omega

/-- Of a letter, the property bit is 0 exactly when it is uppercase. -/
theorem not_propBit_eq_isUpper {b : Byte} (h : isLetter b = true) : (!propBit b) = isUpper b := by
  rw [isLetter_iff, isUpper_iff, isLower_iff] at h
  rw [Bool.eq_iff_iff, Bool.not_eq_true', ← Bool.not_eq_true, propBit_iff, isUpper_iff]
  omega

end Sys2Proof.Proofs
end

section
/-! PROOFS. The statements about the cycle, the ports and reset (10_state.md R20 to R23). -/

namespace Sys2Proof.Proofs

open Sys2Proof.Machine Sys2Proof.Safety

/-- Settles O4: one clause for each thing the pins can say. -/
theorem cycleIsResetCommandOrIdle : Obligations.CycleIsResetCommandOrIdle := by
  refine ⟨fun s hreset => ?_, fun s w hw => ?_, fun s hidle => ?_, reset_or_accepts_or_idle,
    fun s w => execWord_answers w s⟩
  · exact ⟨_, step_of_resetNow hreset, rfl, rfl, rspValid_of_resetNow hreset⟩
  · exact ⟨step_of_acceptsNow hw, rspValid_of_acceptsNow hw, step_response_on_rsp hw⟩
  · exact ⟨_, step_of_idleNow hidle, rfl, rfl, rspValid_of_idleNow hidle⟩

/-- With a tag held the property lines are the case of the four letters (10_state.md R21). -/
theorem propertyLines_of_tagHeld {s : State} (hs : Safe s) (hv : s.block.tagValid = true) :
    (ports s).isCritical = isUpper s.block.tag.b0 ∧ (ports s).isPublic = isUpper s.block.tag.b1 ∧
    (ports s).isReservedBitValid = isUpper s.block.tag.b2 ∧
    (ports s).isSafeToCopy = isLower s.block.tag.b3 := by
  obtain ⟨h0, h1, h2, h3⟩ := hs.1 hv
  simp only [ports, hv, Bool.true_and, isCritical, isPublic, isReservedBitValid, isSafeToCopy]
  exact ⟨not_propBit_eq_isUpper h0, not_propBit_eq_isUpper h1, not_propBit_eq_isUpper h2,
    propBit_eq_isLower h3⟩

/-- Without a tag all four property lines are 0. -/
theorem propertyLines_of_noTag {s : State} (hv : s.block.tagValid = false) :
    (ports s).isCritical = false ∧ (ports s).isPublic = false ∧
    (ports s).isReservedBitValid = false ∧ (ports s).isSafeToCopy = false := by
  simp [ports, hv]

/-- Without a tag the invariant leaves zero bytes on `tag_out`. -/
theorem tagOut_of_noTag {s : State} (hs : Safe s) (hv : s.block.tagValid = false) :
    (ports s).tagOut = 0x00000000 := by
  obtain ⟨h0, h1, h2, h3⟩ := hs.2 hv
  simp [ports, tagWord, wordOfBytes, h0, h1, h2, h3]

/-- Settles O14: the ports as defined, then their meaning with and without a tag. -/
theorem portsFromState : Obligations.PortsFromState := by
  refine ⟨fun s => ⟨rfl, rfl, rfl, rfl, rfl, rfl, rfl⟩, fun s => propertyLines_of_tagHeld,
    fun s hs hv => ?_⟩
  obtain ⟨hcritical, hpublic, hreserved, hsafe⟩ := propertyLines_of_noTag hv
  exact ⟨hcritical, hpublic, hreserved, hsafe, tagOut_of_noTag hs hv⟩

/-- Settles O15: `rsp_valid` is 1 exactly when a word is accepted, and the response is then the step's. -/
theorem responsePorts : Obligations.ResponsePorts := by
  refine ⟨fun s => rfl, rspValid_iff_acceptsNow, fun s w hw => step_response_on_rsp hw,
    fun s hvalid => ⟨rsp_of_not_rspValid hvalid, ?_⟩, fun s => ⟨rfl, rfl, rfl⟩, fun s s' hblock => ?_⟩
  · refine step_silent_of_not_acceptsNow fun haccepts => ?_
    exact Bool.false_ne_true (hvalid.symm.trans ((rspValid_iff_acceptsNow s).2 haccepts))
  · simp [ports, hblock]

/-- Settles O1: the reset block and the ports of a state that holds it. -/
theorem resetStateValues : Obligations.ResetStateValues := by
  refine ⟨rfl, fun s hreset => ⟨_, step_of_resetNow hreset, rfl⟩, fun s hblock => ?_⟩
  have hs : Safe s := by rw [Safe, hblock]; exact blockInv_resetBlock
  have hv : s.block.tagValid = false := by rw [hblock]; rfl
  have hcrc : (ports s).crcOut = 0x00000000 := by simp only [ports, hblock]; decide
  exact ⟨hcrc, tagOut_of_noTag hs hv, hv, propertyLines_of_noTag hv⟩

end Sys2Proof.Proofs
end

section
/-! PROOFS. Every command decodes from its word (30_encoding.md R49, R50), and a cycle that presents the word runs the
command. -/

namespace Sys2Proof.Proofs

open Sys2Proof.Machine

/-- The decoder reads every command from its own word, with every operand. -/
@[simp] theorem decode_encode (i : Instr) : decode (encode i) = .ok i := by
  rw [encode, decode_append]
  cases i <;> simp [opcodeOf, operandOf]

/-- A cycle that presents a command's word is that command, its pins used up. -/
theorem step_commandPins_encode (i : Instr) (b : Block) (ins : List CycleIn) (q : Option Response) :
    step ⟨b, commandPins (encode i) :: ins, q⟩ = exec i ⟨b, ins, none⟩ := by
  rw [step_of_command _ (encode i) ((samplePins_command_iff _ _).2 ⟨rfl, rfl, rfl⟩),
    execWord_of_decode (decode_encode i)]
  rfl

end Sys2Proof.Proofs
end

section
/-! PROOFS. A sequence of commands, executed one after another or presented in consecutive cycles (20_memory.md
R42). -/

namespace Sys2Proof.Proofs

open Sys2Proof.Machine

/-- A sequence of at least one command leaves the inputs, and its final block and response are functions of the block
it starts from. -/
theorem execAll_cons_of_block (i : Instr) (is : List Instr) (b : Block) :
    ∃ b' r, ∀ ins q, execAll (i :: is) ⟨b, ins, q⟩ = .next ⟨b', ins, some r⟩ := by
  induction is generalizing i b with
  | nil =>
    obtain ⟨b', r, hexec⟩ := exec_of_block i b
    exact ⟨b', r, fun ins q => execAll_cons (hexec ins q)⟩
  | cons j js ih =>
    obtain ⟨b₁, r₁, hexec⟩ := exec_of_block i b
    obtain ⟨b', r, hrest⟩ := ih j b₁
    exact ⟨b', r, fun ins q => (execAll_cons (hexec ins q)).trans (hrest ins _)⟩

/-- Consecutive cycles that present the words of a sequence run the sequence, and leave the pins that follow. -/
theorem runCycles_commandPins (is : List Instr) (rest : List CycleIn) (b : Block) (q : Option Response) :
    runCycles is.length ⟨b, is.map (fun i => commandPins (encode i)) ++ rest, q⟩ =
      execAll is ⟨b, rest, q⟩ := by
  induction is generalizing b q with
  | nil => rfl
  | cons i is ih =>
    obtain ⟨b', r, hexec⟩ := exec_of_block i b
    have hstep := (step_commandPins_encode i b (is.map (fun i => commandPins (encode i)) ++ rest) q).trans
      (hexec _ none)
    exact ((runCycles_succ hstep).trans (ih b' _)).trans (execAll_cons (hexec rest q)).symm

/-- Settles O8: the cycles run the sequence on the later pins, and no sequence reads its inputs. -/
theorem commandsTakeEffectInCycleOrder : Obligations.CommandsTakeEffectInCycleOrder := by
  intro is s rest
  have hrun := runCycles_commandPins is rest s.block s.rsp
  cases is with
  | nil => exact ⟨s, _, rfl, hrun, rfl, rfl, fun _ => rfl⟩
  | cons i is =>
    obtain ⟨b', r, hall⟩ := execAll_cons_of_block i is s.block
    exact ⟨_, _, hall s.inputs s.rsp, hrun.trans (hall rest s.rsp), rfl, rfl, fun _ => rfl⟩

end Sys2Proof.Proofs
end

section
/-! PROOFS. Which commands may be repeated (20_memory.md R40). -/

namespace Sys2Proof.Proofs

open Sys2Proof.Machine Sys2Proof.Safety

/-- The commands that write no state are no `CRC_INIT` and no `TYPE_LOAD`, and absorb nothing. -/
theorem ne_crcInit_of_writesNothing {i : Instr} (h : WritesNothing i) : i ≠ .crcInit := by
  rintro rfl
  simp [WritesNothing] at h

theorem ne_typeLoad_of_writesNothing {i : Instr} (h : WritesNothing i) (w : Word) : i ≠ .typeLoad w := by
  rintro rfl
  simp [WritesNothing] at h

theorem absorbedBy_of_writesNothing {i : Instr} (h : WritesNothing i) (b : Block) : absorbedBy b i = [] := by
  obtain rfl | rfl | rfl | ⟨w, rfl⟩ | rfl | ⟨e, rfl⟩ := h <;> rfl

/-- Such a command keeps `crc`, as it absorbs nothing, and the tag, as it loads none. -/
theorem exec_block_of_writesNothing {i : Instr} {s t : State} (hi : WritesNothing i)
    (h : exec i s = .next t) : t.block = s.block := by
  have hcrc := exec_crc (ne_crcInit_of_writesNothing hi) h
  rw [absorbedBy_of_writesNothing hi, crcBytes_nil] at hcrc
  obtain ⟨htag, hvalid⟩ := exec_sameTag (ne_typeLoad_of_writesNothing hi) h
  exact (Block.mk.injEq ..).mpr ⟨hcrc, htag, hvalid⟩

/-- Such a command gives a response that the block fixes, and does nothing else. -/
theorem exec_of_writesNothing {i : Instr} (hi : WritesNothing i) (b : Block) :
    ∃ r, ∀ ins q, exec i ⟨b, ins, q⟩ = .next ⟨b, ins, some r⟩ := by
  obtain ⟨b', r, hexec⟩ := exec_of_block i b
  obtain rfl : b' = b := exec_block_of_writesNothing hi (hexec [] none)
  exact ⟨r, hexec⟩

/-- A command that writes nothing may stand before any sequence. -/
theorem execAll_insert_of_writesNothing {i : Instr} (hi : WritesNothing i) (is : List Instr) (s : State) :
    ∃ t u, execAll (i :: is) s = .next t ∧ execAll is s = .next u ∧ t.block = u.block ∧
      (is ≠ [] → t.rsp = u.rsp) := by
  obtain ⟨r, hexec⟩ := exec_of_writesNothing hi s.block
  have hhead := execAll_cons (is := is) (hexec s.inputs s.rsp)
  cases is with
  | nil => exact ⟨_, s, hhead, rfl, rfl, fun h => absurd rfl h⟩
  | cons j js =>
    obtain ⟨b', r', hall⟩ := execAll_cons_of_block j js s.block
    exact ⟨_, _, hhead.trans (hall _ _), hall s.inputs s.rsp, rfl, fun _ => rfl⟩

/-- A load of four letters writes the tag and answers its properties (40_chunktype.md R64). -/
theorem exec_typeLoad_of_tagOk {w : Word} (h : tagOk w = true) (s : State) :
    exec (.typeLoad w) s = .next
      ⟨⟨s.block.crc, tagOfWord w, true⟩, s.inputs, some ⟨.ok, zextProps (props w)⟩⟩ :=
  if_pos h

/-- Any other load clears the tag and answers `TYPE_PARSE_ERROR`. -/
theorem exec_typeLoad_of_not_tagOk {w : Word} (h : ¬ tagOk w = true) (s : State) :
    exec (.typeLoad w) s = .next ⟨⟨s.block.crc, zeroTag, false⟩, s.inputs, some ⟨.typeParseError, 0⟩⟩ :=
  if_neg h

/-- A command that changes nothing in the state it led to may be given twice. -/
theorem execAll_twice {i : Instr} {s t : State} (h : exec i s = .next t) (hagain : exec i t = .next t) :
    execAll [i, i] s = execAll [i] s := by
  rw [execAll_cons h, execAll_cons h, execAll_cons hagain]

theorem execAll_typeLoad_twice (w : Word) (s : State) :
    execAll [.typeLoad w, .typeLoad w] s = execAll [.typeLoad w] s := by
  by_cases h : tagOk w = true
  · exact execAll_twice (exec_typeLoad_of_tagOk h s) (exec_typeLoad_of_tagOk h _)
  · exact execAll_twice (exec_typeLoad_of_not_tagOk h s) (exec_typeLoad_of_not_tagOk h _)

/-- Two sequences that leave different values in `crc` differ. -/
theorem execAll_ne_of_crc_ne {is js : List Instr} {s t u : State} (hi : execAll is s = .next t)
    (hj : execAll js s = .next u) (hcrc : t.block.crc ≠ u.block.crc) : execAll is s ≠ execAll js s := by
  rw [hi, hj]
  rintro ⟨rfl⟩
  exact hcrc rfl

/-- A second `CRC_BYTE 0x31` after reset absorbs a second byte. -/
theorem execAll_crcByte_twice_ne :
    execAll [.crcByte 0x31, .crcByte 0x31] State.reset ≠ execAll [.crcByte 0x31] State.reset :=
  execAll_ne_of_crc_ne rfl rfl (by decide +kernel)

/-- A state that holds "RuSt" and a CRC register just initialised. -/
def rustHeld : State := ⟨⟨0xFFFFFFFF, tagOfWord 0x52755374, true⟩, [], none⟩

/-- A second `CRC_TAG` absorbs the held tag a second time. -/
theorem execAll_crcTag_twice_ne : execAll [.crcTag, .crcTag] rustHeld ≠ execAll [.crcTag] rustHeld :=
  execAll_ne_of_crc_ne rfl rfl (by decide +kernel)

/-- Settles O44: six commands keep the block, `CRC_INIT` and `TYPE_LOAD` lead to a state they keep, and the other two
absorb again. -/
theorem repeatableCommands : Obligations.RepeatableCommands := by
  refine ⟨fun i s hi => ?_, fun i is s hi => execAll_insert_of_writesNothing hi is s,
    fun s => execAll_twice rfl rfl, fun s w => execAll_typeLoad_twice w s,
    ⟨_, _, execAll_crcByte_twice_ne⟩, ⟨_, execAll_crcTag_twice_ne⟩⟩
  obtain ⟨r, hexec⟩ := exec_of_writesNothing hi s.block
  exact ⟨_, hexec s.inputs s.rsp, rfl, rfl, hexec s.inputs (some r)⟩

end Sys2Proof.Proofs
end

section
/-! PROOFS. The bytes of a stored CRC value (20_memory.md R35). -/

namespace Sys2Proof.Proofs

open Sys2Proof.Machine

/-- The record bytes of a value, put together most significant first, are the value. -/
theorem wordOfBytes_of_crcRecordBytes {v : Word} {t0 t1 t2 t3 : Byte}
    (h : crcRecordBytes v = [t0, t1, t2, t3]) : wordOfBytes t0 t1 t2 t3 = v := by
  simp only [crcRecordBytes, List.cons.injEq, and_true] at h
  obtain ⟨rfl, rfl, rfl, rfl⟩ := h
  exact wordOfBytes_lanes v

/-- Settles O56: the record bytes are the four lanes, and joining the lanes gives the value back. -/
theorem crcBytesBigEndian : Obligations.CrcBytesBigEndian := by
  refine ⟨fun v => rfl, fun v t0 t1 t2 t3 h => ?_, by decide⟩
  have hv := wordOfBytes_of_crcRecordBytes h
  exact ⟨by rw [expand, hv], hv.symm⟩

end Sys2Proof.Proofs
end

section
/-! PROOFS. What the decoder answers, read off the two fields of a word and off the rows of the opcode map
(30_encoding.md R49 to R51). -/

namespace Sys2Proof.Proofs

open Sys2Proof.Machine Sys2Proof.Safety

/-- A decoded command is that of a row the word matches (30_encoding.md R50). -/
theorem row_of_decode {w : CmdWord} {i : Instr} (h : decode w = .ok i) :
    ∃ r ∈ opcodeMap, rowMatches w r = true ∧ r.command w = i := by
  rw [decode] at h
  cases hfind : opcodeMap.find? (rowMatches w) with
  | none => simp [hfind] at h
  | some r =>
    rw [hfind] at h
    exact ⟨r, List.mem_of_find?_eq_some hfind, List.find?_some hfind, Except.ok.inj h⟩

/-- A word is illegal exactly when it matches no row (30_encoding.md R50). -/
theorem decode_error_iff_no_row (w : CmdWord) :
    (∃ e, decode w = .error e) ↔ ∀ r ∈ opcodeMap, rowMatches w r = false := by
  rw [decode]
  cases hfind : opcodeMap.find? (rowMatches w) with
  | none => simpa using List.find?_eq_none.1 hfind
  | some r => simpa using ⟨r, List.mem_of_find?_eq_some hfind, List.find?_some hfind⟩

/-- A decoded command has the opcode and the operand of its word. -/
theorem fields_of_decode {w : CmdWord} {i : Instr} (h : decode w = .ok i) :
    opcodeField w = opcodeOf i ∧ operandField w = operandOf i := by
  obtain ⟨r, hrow, hmatch, rfl⟩ := row_of_decode h
  rw [rowMatches, beq_iff_eq] at hmatch
  simp only [opcodeMap, List.mem_cons, List.not_mem_nil, or_false] at hrow
  obtain rfl | rfl | rfl | rfl | rfl | rfl | rfl | rfl | rfl | rfl := hrow
  · exact (and_noneMask_iff w 0x00).1 hmatch
  · exact ⟨(and_wordMask_iff w 0x10).1 hmatch, rfl⟩
  · exact (and_noneMask_iff w 0x11).1 hmatch
  · exact (and_noneMask_iff w 0x12).1 hmatch
  · exact ⟨(and_wordMask_iff w 0x13).1 hmatch, rfl⟩
  · exact (and_noneMask_iff w 0x20).1 hmatch
  · obtain ⟨hop, hzero⟩ := (and_byteMask_iff w 0x21).1 hmatch
    exact ⟨hop, by rw [operandOf, byteField_eq, zext_bits7_0 hzero]⟩
  · exact (and_noneMask_iff w 0x22).1 hmatch
  · exact (and_noneMask_iff w 0x23).1 hmatch
  · exact ⟨(and_wordMask_iff w 0x24).1 hmatch, rfl⟩

/-- A word decodes to a command exactly when its fields are the command's. -/
theorem decode_eq_ok_iff (w : CmdWord) (i : Instr) :
    decode w = .ok i ↔ opcodeField w = opcodeOf i ∧ operandField w = operandOf i := by
  refine ⟨fields_of_decode, fun ⟨hop, hoperand⟩ => ?_⟩
  rw [← append_fields w, hop, hoperand]
  exact decode_encode i

/-- A row of form none, by the opcode `p` of its command. -/
theorem decode_eq_ok_iff_noneMask {i : Instr} (p : Opcode) (hop : opcodeOf i = p) (hoperand : operandOf i = 0#32)
    (w : CmdWord) : decode w = .ok i ↔ w &&& 0xFFFFFFFFFF = (p ++ 0#32 : CmdWord) := by
  rw [decode_eq_ok_iff, hop, hoperand, and_noneMask_iff]

/-- A row of form `WORD`, by the opcode `p` and the operand `x` of its command. -/
theorem decode_eq_ok_iff_wordMask {i : Instr} {x : Word} (p : Opcode) (hop : opcodeOf i = p)
    (hoperand : operandOf i = x) (w : CmdWord) :
    decode w = .ok i ↔ w &&& 0xFF00000000 = (p ++ 0#32 : CmdWord) ∧ x = operandField w := by
  rw [decode_eq_ok_iff, hop, hoperand, and_wordMask_iff, @eq_comm _ x]

/-- An operand field holds the byte `b` exactly when its must-be-zero bits are 0 and its low byte is `b`. -/
theorem eq_zext_byte_iff (x : Word) (b : Byte) :
    x = b.setWidth 32 ↔ x &&& 0xFFFFFF00#32 = 0#32 ∧ b = x.extractLsb' 0 8 := by
  constructor
  · rintro rfl
    simp
  · rintro ⟨hzero, rfl⟩
    exact (zext_bits7_0 hzero).symm

/-- The row of form `BYTE`. -/
theorem decode_eq_ok_iff_byteMask (w : CmdWord) (b : Byte) :
    decode w = .ok (.crcByte b) ↔ w &&& 0xFFFFFFFF00 = (0x21#8 ++ 0#32 : CmdWord) ∧ b = byteField w := by
  rw [decode_eq_ok_iff, and_byteMask_iff, byteField_eq, and_assoc, ← eq_zext_byte_iff]
  rfl

/-- An illegal word changes the response only (30_encoding.md R51). -/
theorem execWord_of_illegal {w : CmdWord} {e : Illegal} (h : decode w = .error e) (s : State) :
    execWord w s = .next { s with rsp := some ⟨.illegalCmd, 0x00000000⟩ } := by
  rw [execWord, h]
  rfl

/-- Settles O18: the row of each command by its form, and an illegal word as one that no row matches. -/
theorem decodeFollowsOpcodeMap : Obligations.DecodeFollowsOpcodeMap := by
  refine ⟨decode_eq_ok_iff_noneMask 0x00 rfl rfl, fun w x => decode_eq_ok_iff_wordMask 0x10 rfl rfl w,
    decode_eq_ok_iff_noneMask 0x11 rfl rfl, decode_eq_ok_iff_noneMask 0x12 rfl rfl,
    fun w x => decode_eq_ok_iff_wordMask 0x13 rfl rfl w, decode_eq_ok_iff_noneMask 0x20 rfl rfl,
    decode_eq_ok_iff_byteMask, decode_eq_ok_iff_noneMask 0x22 rfl rfl, decode_eq_ok_iff_noneMask 0x23 rfl rfl,
    fun w e => decode_eq_ok_iff_wordMask 0x24 rfl rfl w, fun w => ?_,
    fun s w i h => execWord_of_decode h s, fun s w e h => execWord_of_illegal h s⟩
  rw [decode_error_iff_no_row]
  simp only [opcodeMap, List.forall_mem_cons, rowMatches, beq_eq_false_iff_ne]
  simp only [List.mem_cons, List.not_mem_nil, or_false, not_or, false_imp_iff, implies_true, and_true]
  tauto

/-- The illegal words by their fields (30_encoding.md R51). -/
theorem decode_append_error_iff (o : Opcode) (x : Word) : (∃ e, decode (o ++ x) = .error e) ↔
    o ∉ [0x00#8, 0x10, 0x11, 0x12, 0x13, 0x20, 0x21, 0x22, 0x23, 0x24] ∨
    (o ∈ [0x00#8, 0x11, 0x12, 0x20, 0x22, 0x23] ∧ x ≠ 0) ∨
    (o = 0x21 ∧ x &&& 0xFFFFFF00 ≠ 0) := by
  rw [decode_error_iff_no_row, opcodeMap_fields]
  simp only [List.forall_mem_cons, rowMatches_append, opcode_and_ones, word_and_ones, BitVec.and_zero]
  by_cases ho : o ∈ [0x00#8, 0x10, 0x11, 0x12, 0x13, 0x20, 0x21, 0x22, 0x23, 0x24]
  · simp only [List.mem_cons, List.not_mem_nil, or_false] at ho
    obtain rfl | rfl | rfl | rfl | rfl | rfl | rfl | rfl | rfl | rfl := ho <;> simp
  · refine iff_of_true ?_ (.inl ho)
    simp_all

/-- Settles O21: the illegal words by their fields, their answer alone and in a cycle, and the example words. -/
theorem illegalWordsAnswered : Obligations.IllegalWordsAnswered := by
  refine ⟨decode_append_error_iff, fun s w e h => execWord_of_illegal h s, fun s w e hw h => ?_, ?_,
    decode_encode .nop⟩
  · rw [step_of_acceptsNow hw, execWord_of_illegal h]
  · simp only [List.forall_mem_cons]
    exact ⟨⟨_, rfl⟩, ⟨_, rfl⟩, ⟨_, rfl⟩, ⟨_, rfl⟩, by simp⟩

end Sys2Proof.Proofs
end

section
/-! PROOFS. The response word (30_encoding.md R46) and what each status says of the command and its result
(60_exceptions.md R101 to R105). -/

namespace Sys2Proof.Proofs

open Sys2Proof.Machine Sys2Proof.Safety

/-- What a command's response `r` in state `s` can be: each failing status has its command, its cause and its
result (60_exceptions.md R101). -/
inductive ResponseOrigin (i : Instr) (s : State) (r : Response) : Prop where
  | ok (status : r.status = .ok)
  | typeParseError (x : Word) (command : i = .typeLoad x) (cause : tagOk x = false)
      (response : r = ⟨.typeParseError, 0x00000000⟩)
  | crcMismatch (e : Word) (command : i = .crcCheck e) (cause : e ≠ crcOut s.block.crc)
      (response : r = ⟨.crcMismatch, crcOut s.block.crc⟩)
  | noTag (command : NeedsTag i) (cause : s.block.tagValid = false) (response : r = ⟨.noTag, 0x00000000⟩)

/-- The response that `respond` leaves. -/
theorem rsp_of_respond {st : Status} {x : Word} {s t : State} {r : Response} (h : respond st x s = .next t)
    (hr : t.rsp = some r) : r = ⟨st, x⟩ := by
  cases h
  exact (Option.some.inj hr).symm

theorem status_of_respond {st : Status} {x : Word} {s t : State} {r : Response} (h : respond st x s = .next t)
    (hr : t.rsp = some r) : r.status = st :=
  congrArg Response.status (rsp_of_respond h hr)

/-- A command behind the missing-tag test answers `NO_TAG` without a tag, else as it does by itself. -/
theorem needTag_origin {f : State → Host.Outcome State Fault Refusal} {i : Instr} {s t : State} {r : Response}
    (hi : NeedsTag i) (h : needTag f s = .next t) (hr : t.rsp = some r) (hf : f s = .next t → r.status = .ok) :
    ResponseOrigin i s r := by
  cases hv : s.block.tagValid with
  | true => exact .ok (hf ((needTag_of_valid f s hv).symm.trans h))
  | false => exact .noTag hi hv (rsp_of_respond ((needTag_of_invalid f s hv).symm.trans h) hr)

/-- Every command's response has its origin. -/
theorem exec_origin {i : Instr} {s t : State} {r : Response} (h : exec i s = .next t) (hr : t.rsp = some r) :
    ResponseOrigin i s r := by
  cases i with
  | nop | crcInit | crcByte | crcRead => exact .ok (status_of_respond h hr)
  | typeLoad x =>
    simp only [exec, execTypeLoad] at h
    split at h
    · exact .ok (status_of_respond h hr)
    next hx => exact .typeParseError x rfl (eq_false_of_ne_true hx) (rsp_of_respond h hr)
  | typeRead | typeProps | crcTag =>
    simp only [exec, execTypeRead, execTypeProps, execCrcTag] at h
    exact needTag_origin (by simp [NeedsTag]) h hr (fun h => status_of_respond h hr)
  | typeEq x =>
    simp only [exec, execTypeEq] at h
    refine needTag_origin (by simp [NeedsTag]) h hr (fun h => ?_)
    split at h <;> exact status_of_respond h hr
  | crcCheck e =>
    simp only [exec, execCrcCheck] at h
    split at h
    · exact .ok (status_of_respond h hr)
    next hne => exact .crcMismatch e rfl (fun he => hne (beq_iff_eq.2 he.symm)) (rsp_of_respond h hr)

/-- The result is 0 with `TYPE_PARSE_ERROR`, `NO_TAG` and `ILLEGAL_CMD` (30_encoding.md R46). -/
theorem result_eq_zero_of_origin {i : Instr} {s : State} {r : Response} (h : ResponseOrigin i s r)
    (hst : r.status = .typeParseError ∨ r.status = .noTag ∨ r.status = .illegalCmd) : r.result = 0x00000000 := by
  cases h with
  | ok hok => simp [hok] at hst
  | typeParseError _ _ _ hr | noTag _ _ hr => rw [hr]
  | crcMismatch _ _ _ hr => simp [hr] at hst

theorem execWord_result_eq_zero {w : CmdWord} {s t : State} {r : Response} (h : execWord w s = .next t)
    (hr : t.rsp = some r) (hst : r.status = .typeParseError ∨ r.status = .noTag ∨ r.status = .illegalCmd) :
    r.result = 0x00000000 := by
  cases hd : decode w with
  | ok i =>
    rw [execWord_of_decode hd] at h
    exact result_eq_zero_of_origin (exec_origin h hr) hst
  | error e =>
    rw [execWord_of_illegal hd] at h
    cases h; cases hr
    rfl

/-- The two fields of a response word. -/
theorem statusField_responseWord (r : Response) : (responseWord r).extractLsb' 32 4 = statusCode r.status :=
  BitVec.extractLsb'_append_eq_left

theorem resultField_responseWord (r : Response) : (responseWord r).extractLsb' 0 32 = r.result :=
  (BitVec.extractLsb'_append_eq_of_add_le (xhi := statusCode r.status) (xlo := r.result) (Nat.le_refl 32)).trans
    BitVec.extractLsb'_eq_self

/-- Settles O22: the two fields, the five codes, the port in the accepting cycle, and the result by its origin. -/
theorem responseWordLayout : Obligations.ResponseWordLayout := by
  refine ⟨fun r => ⟨statusField_responseWord r, resultField_responseWord r⟩, ⟨rfl, rfl, rfl, rfl, rfl⟩,
    fun st => by cases st <;> decide, fun s w hw => ⟨rspValid_of_acceptsNow hw, ?_⟩, fun s w => ?_⟩
  · obtain ⟨_, r, -, -, hrsp⟩ := step_response_on_rsp hw
    exact ⟨r, hrsp⟩
  · obtain ⟨t, r, hexec, hr⟩ := execWord_answers w s
    exact ⟨t, r, hexec, hr, execWord_result_eq_zero hexec hr⟩

end Sys2Proof.Proofs
end

section
/-! PROOFS. The bytes and the word of a text, and the pseudo-commands built from them (30_encoding.md R55, R56). -/

namespace Sys2Proof.Proofs

open Sys2Proof.Machine

/-- The byte of bits 7:0 of a character's code, which is the whole code when that is at most 0xFF. -/
def codeByte (c : Char) : Byte := BitVec.ofNat 8 c.toNat

theorem codeByte_toNat {c : Char} (h : c.toNat ≤ 0xFF) : (codeByte c).toNat = c.toNat := by
  rw [codeByte, BitVec.toNat_ofNat]
  omega

theorem charByte_of_le {c : Char} (h : c.toNat ≤ 0xFF) : charByte c = some (codeByte c) := if_pos h

theorem charByte_of_lt {c : Char} (h : 0xFF < c.toNat) : charByte c = none := if_neg (Nat.not_le.2 h)

/-- A text without wide characters has the bytes of its codes. -/
theorem textBytes_of_le {text : List Char} (h : ∀ c ∈ text, c.toNat ≤ 0xFF) :
    textBytes text = some (text.map codeByte) := by
  induction text with
  | nil => rfl
  | cons c cs ih =>
    obtain ⟨hc, hcs⟩ := List.forall_mem_cons.1 h
    simp [textBytes, charByte_of_le hc, ih hcs]

/-- A text with a wide character has none. -/
theorem textBytes_of_lt {text : List Char} (h : ∃ c ∈ text, 0xFF < c.toNat) : textBytes text = none := by
  induction text with
  | nil => simp at h
  | cons c cs ih =>
    rw [textBytes]
    obtain hc | hcs := (List.exists_mem_cons_iff ..).1 h
    · rw [charByte_of_lt hc]
    · rw [ih hcs]
      cases charByte c <;> rfl

/-- Four characters make the word of their codes, the first in bits 31:24. -/
theorem textWord_of_four {c0 c1 c2 c3 : Char} (h0 : c0.toNat ≤ 0xFF) (h1 : c1.toNat ≤ 0xFF)
    (h2 : c2.toNat ≤ 0xFF) (h3 : c3.toNat ≤ 0xFF) :
    textWord [c0, c1, c2, c3] = some (wordOfBytes (codeByte c0) (codeByte c1) (codeByte c2) (codeByte c3)) := by
  rw [textWord, textBytes_of_le (by simp [h0, h1, h2, h3])]
  rfl

/-- A text of another length, or with a wide character, makes no word. -/
theorem textWord_eq_none {text : List Char} (h : text.length ≠ 4 ∨ ∃ c ∈ text, 0xFF < c.toNat) :
    textWord text = none := by
  by_cases hwide : ∃ c ∈ text, 0xFF < c.toNat
  · rw [textWord, textBytes_of_lt hwide]
  · have hlen : text.length ≠ 4 := h.resolve_right hwide
    rw [textWord, textBytes_of_le (by simpa using hwide)]
    split
    next hfour =>
      have hlength := congrArg (Option.map List.length) hfour
      simp [hlen] at hlength
    next => rfl

/-- The load of a text is that of its word; without a word it is refused. -/
theorem expand_typeLoadT_of_some {text : List Char} {w : Word} (h : textWord text = some w) :
    expand (.typeLoadT text) = .ok [.typeLoad w] := by
  rw [expand, h]

theorem expand_typeLoadT_of_none {text : List Char} (h : textWord text = none) :
    expand (.typeLoadT text) = .error .typeParseError := by
  rw [expand, h]

/-- Settles O59: the word of four codes has them as its lanes, and any other text has no word. -/
theorem textConstructor : Obligations.TextConstructor := by
  refine ⟨fun c0 c1 c2 c3 h0 h1 h2 h3 => ?_, fun text h => expand_typeLoadT_of_none (textWord_eq_none h),
    expand_typeLoadT_of_some (by decide)⟩
  have hlanes := tagOfWord_wordOfBytes (codeByte c0) (codeByte c1) (codeByte c2) (codeByte c3)
  simp only [tagOfWord, Tag.mk.injEq] at hlanes
  obtain ⟨hlane0, hlane1, hlane2, hlane3⟩ := hlanes
  exact ⟨_, expand_typeLoadT_of_some (textWord_of_four h0 h1 h2 h3),
    (congrArg BitVec.toNat hlane0).trans (codeByte_toNat h0),
    (congrArg BitVec.toNat hlane1).trans (codeByte_toNat h1),
    (congrArg BitVec.toNat hlane2).trans (codeByte_toNat h2),
    (congrArg BitVec.toNat hlane3).trans (codeByte_toNat h3),
    fun hok s => ⟨_, exec_typeLoad_of_not_tagOk (by simp [hok]) s, rfl⟩⟩

/-- Settles O58: each expansion follows the word or the bytes of its text. -/
theorem pseudoCommandExpansions : Obligations.PseudoCommandExpansions := by
  refine ⟨fun text w h => ?_, fun text h => ?_, fun bs => rfl, fun text h => ?_, fun text h => ?_,
    fun t0 t1 t2 t3 => rfl⟩
  · exact ⟨expand_typeLoadT_of_some h, by rw [expand, h], fun bs => by rw [expand, h]⟩
  · exact ⟨expand_typeLoadT_of_none h, ⟨.notFourBytes, by rw [expand, h]⟩, fun bs => by rw [expand, h]⟩
  · rw [expand, textBytes_of_le h]
    simp [codeByte]
  · exact ⟨.characterTooWide, by rw [expand, textBytes_of_lt h]⟩

end Sys2Proof.Proofs
end

section
/-! PROOFS. The letter ranges (40_chunktype.md R60) and the condition of construction (R61). -/

namespace Sys2Proof.Proofs

open Sys2Proof.Machine Sys2Proof.Safety

/-- A byte outside both ranges is no letter. -/
theorem isLetter_eq_false {b : Byte} (hupper : ¬ (0x41 ≤ b.toNat ∧ b.toNat ≤ 0x5A))
    (hlower : ¬ (0x61 ≤ b.toNat ∧ b.toNat ≤ 0x7A)) : isLetter b = false := by
  rw [← Bool.not_eq_true, isLetter_iff, isUpper_iff, isLower_iff]
  exact not_or.2 ⟨hupper, hlower⟩

theorem isLetter_eq_false_of_bit7 {b : Byte} (h : b.getLsbD 7 = true) : isLetter b = false := by
  have hge : 2 ^ 7 ≤ b.toNat := Nat.ge_two_pow_of_testBit h
  exact isLetter_eq_false (by omega) (by omega)

/-- Settles O39: both ranges as numbers, the count, and the bytes outside. -/
theorem letterRanges : Obligations.LetterRanges :=
  ⟨isUpper_iff, isLower_iff, isLetter_iff, by decide, fun _ => isLetter_eq_false_of_bit7,
    by decide, fun _ _ _ => isLetter_eq_false (by omega) (by omega)⟩

theorem tagOk_iff (w : Word) : tagOk w = true ↔ isLetter (lane0 w) = true ∧ isLetter (lane1 w) = true ∧
    isLetter (lane2 w) = true ∧ isLetter (lane3 w) = true := by
  simp [tagOk, tagLetters, tagOfWord, and_assoc]

/-- The word of a held tag is a valid tag word (10_state.md R15). -/
theorem tagOk_tagWord_of_tagHeld {s : State} (hs : Safe s) (hv : s.block.tagValid = true) :
    tagOk (tagWord s.block.tag) = true := by
  simpa [tagOk, tagLetters, and_assoc] using hs.1 hv

end Sys2Proof.Proofs
end

section
/-! PROOFS. The four properties, their bits in `Props`, and `Props` as a 32-bit result (40_chunktype.md R63,
30_encoding.md R48). -/

namespace Sys2Proof.Proofs

open Sys2Proof.Machine

/-- Each bit of a four-bit value put together from flags is its flag. -/
theorem ofBool_append_bits (b3 b2 b1 b0 : Bool) :
    let p : BitVec 4 := BitVec.ofBool b3 ++ BitVec.ofBool b2 ++ BitVec.ofBool b1 ++ BitVec.ofBool b0
    p[0] = b0 ∧ p[1] = b1 ∧ p[2] = b2 ∧ p[3] = b3 := by
  revert b3 b2 b1 b0
  decide

/-- Bit `i` of `Props` is the property of byte `i`. -/
@[simp] theorem tagProps_bits (t : Tag) : (tagProps t)[0] = isCritical t ∧ (tagProps t)[1] = isPublic t ∧
    (tagProps t)[2] = isReservedBitValid t ∧ (tagProps t)[3] = isSafeToCopy t :=
  ofBool_append_bits _ _ _ _

@[simp] theorem props_tagWord (t : Tag) : props (tagWord t) = tagProps t :=
  congrArg tagProps (tagOfWord_tagWord t)

/-- The result of `TYPE_PROPS` carries the four bits at the same places. -/
@[simp] theorem zextProps_getElem (p : BitVec 4) {i : Nat} (h : i < 4) (h32 : i < 32) :
    (zextProps p)[i]'h32 = p[i] := by
  simp [zextProps, h]

/-- Its other 28 bits are 0. -/
theorem zextProps_bits31_4 (p : BitVec 4) : (zextProps p).extractLsb' 4 28 = 0 := by
  have happend : zextProps p = (0#28 ++ p : Word) := BitVec.setWidth_eq_append (by decide)
  rw [happend]
  exact BitVec.extractLsb'_append_eq_left

/-- A letter of the given case. -/
def caseLetter (lower : Bool) : Byte := if lower then 0x61 else 0x41

@[simp] theorem isLetter_caseLetter (lower : Bool) : isLetter (caseLetter lower) = true := by
  cases lower <;> decide

@[simp] theorem propBit_caseLetter (lower : Bool) : propBit (caseLetter lower) = lower := by
  cases lower <;> decide

/-- A tag with given properties: of the first three letters a property is the upper case, of the last the lower
(40_chunktype.md R63). -/
def tagOfProps (p : BitVec 4) : Tag :=
  ⟨caseLetter !p.getLsbD 0, caseLetter !p.getLsbD 1, caseLetter !p.getLsbD 2, caseLetter (p.getLsbD 3)⟩

theorem tagOk_tagOfProps (p : BitVec 4) : tagOk (tagWord (tagOfProps p)) = true := by
  simp [tagOk, tagLetters, tagOfProps]

theorem tagProps_tagOfProps (p : BitVec 4) : tagProps (tagOfProps p) = p := by
  refine BitVec.eq_of_getElem_eq fun i hi => ?_
  interval_cases i <;> simp [isCritical, isPublic, isReservedBitValid, isSafeToCopy, tagOfProps]

/-- Settles O40: the case of each letter is its property bit, and `Props` collects the four. -/
theorem propertiesAreLetterCase : Obligations.PropertiesAreLetterCase := by
  intro w hw
  obtain ⟨h0, h1, h2, h3⟩ := (tagOk_iff w).1 hw
  obtain ⟨hbit0, hbit1, hbit2, hbit3⟩ := tagProps_bits (tagOfWord w)
  refine ⟨?_, ?_, ?_, ?_, hbit0, hbit1, hbit2, hbit3, hbit0, hbit1, hbit2, hbit3⟩
  · exact Bool.eq_iff_iff.1 (not_propBit_eq_isUpper h0)
  · exact Bool.eq_iff_iff.1 (not_propBit_eq_isUpper h1)
  · exact Bool.eq_iff_iff.1 (not_propBit_eq_isUpper h2)
  · exact Bool.eq_iff_iff.1 (propBit_eq_isLower h3)

end Sys2Proof.Proofs
end

section
/-! PROOFS. The commands of the ChunkType unit (40_chunktype.md R64 to R67). -/

namespace Sys2Proof.Proofs

open Sys2Proof.Machine Sys2Proof.Safety

/-- Without a tag the four tag-dependent commands answer `NO_TAG` and change nothing else (60_exceptions.md
R104). -/
theorem exec_of_noTag {i : Instr} {s : State} (hi : NeedsTag i) (hv : s.block.tagValid = false) :
    exec i s = .next ⟨s.block, s.inputs, some ⟨.noTag, 0x00000000⟩⟩ := by
  obtain rfl | rfl | ⟨w, rfl⟩ | rfl := hi <;>
    simp only [exec, execTypeRead, execTypeProps, execTypeEq, execCrcTag, needTag_of_invalid _ s hv]

theorem exec_typeRead_of_tagHeld {s : State} (hv : s.block.tagValid = true) :
    exec .typeRead s = .next ⟨s.block, s.inputs, some ⟨.ok, tagWord s.block.tag⟩⟩ :=
  needTag_of_valid _ s hv

theorem exec_typeProps_of_tagHeld {s : State} (hv : s.block.tagValid = true) :
    exec .typeProps s = .next ⟨s.block, s.inputs, some ⟨.ok, zextProps (props (tagWord s.block.tag))⟩⟩ :=
  needTag_of_valid _ s hv

theorem exec_typeEq_of_tagHeld {s : State} (w : Word) (hv : s.block.tagValid = true) :
    exec (.typeEq w) s = .next
      ⟨s.block, s.inputs, some ⟨.ok, if w = tagWord s.block.tag then 0x00000001 else 0x00000000⟩⟩ := by
  rw [exec, execTypeEq, needTag_of_valid _ s hv]
  by_cases hw : w = tagWord s.block.tag <;> simp [hw]

/-- With a tag held the four property lines are the bits of `Props` (10_state.md R21). -/
theorem propertyLines_eq_propBits {s : State} (hv : s.block.tagValid = true) :
    (tagProps s.block.tag)[0] = (ports s).isCritical ∧
    (tagProps s.block.tag)[1] = (ports s).isPublic ∧
    (tagProps s.block.tag)[2] = (ports s).isReservedBitValid ∧
    (tagProps s.block.tag)[3] = (ports s).isSafeToCopy := by
  simp [ports, hv]

/-- Settles O26: the result is `Props` zero-extended, whose bits are the property lines; for each value of `Props`
there is a tag with letters of the right case. -/
theorem typePropsReturnsProperties : Obligations.TypePropsReturnsProperties := by
  refine ⟨rfl, fun s hv => ⟨_, exec_typeProps_of_tagHeld hv, rfl, zextProps_bits31_4 _, ?_⟩,
    fun s hv => exec_of_noTag (.inr (.inl rfl)) hv,
    fun p => ⟨_, tagOk_tagOfProps p, (props_tagWord _).trans (tagProps_tagOfProps p)⟩⟩
  simpa using propertyLines_eq_propBits hv

/-- Settles O24: the load succeeds exactly when all four lanes are letters. -/
theorem typeLoadConstructsOrClears : Obligations.TypeLoadConstructsOrClears := by
  refine ⟨fun w => rfl, fun w s h0 h1 h2 h3 => ?_, fun w s h => ?_⟩
  · exact exec_typeLoad_of_tagOk ((tagOk_iff w).2 ⟨h0, h1, h2, h3⟩) s
  · exact exec_typeLoad_of_not_tagOk (mt (tagOk_iff w).1 h) s

/-- Settles O25: with a tag the result is the word on `tag_out`, which is zero without one. -/
theorem typeReadReturnsTagBytes : Obligations.TypeReadReturnsTagBytes :=
  ⟨rfl, fun _ hv => ⟨exec_typeRead_of_tagHeld hv, rfl⟩,
    fun _ hv => ⟨exec_of_noTag (.inl rfl) hv, fun hs => tagOut_of_noTag hs hv⟩⟩

/-- Settles O27: one clause for each answer, and the held word is never an invalid operand. -/
theorem typeEqComparesFourBytes : Obligations.TypeEqComparesFourBytes := by
  have hunequal {s : State} {w : Word} (hv : s.block.tagValid = true) (hw : w ≠ tagWord s.block.tag) :
      exec (.typeEq w) s = .next { s with rsp := some ⟨.ok, 0x00000000⟩ } := by
    rw [exec_typeEq_of_tagHeld w hv, if_neg hw]
  refine ⟨fun w => rfl, fun s w hv hw => ?_, fun s w => hunequal,
    fun s w => exec_of_noTag (.inr (.inr (.inl ⟨w, rfl⟩))), fun s w hs hv hw => hunequal hv ?_⟩
  · rw [exec_typeEq_of_tagHeld w hv, if_pos hw]
  · rintro rfl
    exact Bool.false_ne_true (hw.symm.trans (tagOk_tagWord_of_tagHeld hs hv))

end Sys2Proof.Proofs
end

section
/-! PROOFS. `CrcUpdate` as a function: its eight steps, linearity over XOR, and that it loses nothing (41_crc.md R76,
R89 laws 2 and 3). -/

namespace Sys2Proof.Proofs

open Sys2Proof.Machine

/-- A step is linear: the XOR of two shifted words, with the polynomial once, twice or not at all. -/
theorem crcStep_xor (c c' : Word) : crcStep (c ^^^ c') = crcStep c ^^^ crcStep c' := by
  simp only [crcStep, BitVec.getLsbD_xor, BitVec.ushiftRight_xor_distrib]
  cases c.getLsbD 0 <;> cases c'.getLsbD 0
  case false.false => rfl
  case false.true => exact BitVec.xor_assoc _ _ _
  case true.false => simp only [Bool.xor_false, if_true, Bool.false_eq_true, if_false]; ac_rfl
  case true.true =>
    simp only [Bool.xor_self, Bool.false_eq_true, if_false, if_true]
    rw [BitVec.xor_assoc, xor_xor_cancel_comm_assoc]

theorem crcSteps_xor (n : Nat) (c c' : Word) : crcSteps n (c ^^^ c') = crcSteps n c ^^^ crcSteps n c' := by
  induction n generalizing c c' with
  | zero => rfl
  | succ n ih => rw [crcSteps_succ, crcStep_xor, ih, crcSteps_succ, crcSteps_succ]

/-- Settles O49: zero-extension and the eight steps are linear. -/
theorem crcUpdateLinear : Obligations.CrcUpdateLinear := by
  intro c1 c2 b1 b2
  have hin : (c1 ^^^ c2) ^^^ zextByte (b1 ^^^ b2) = (c1 ^^^ zextByte b1) ^^^ (c2 ^^^ zextByte b2) := by
    rw [zextByte, zextByte, zextByte, BitVec.setWidth_xor]
    ac_rfl
  rw [crcUpdate, hin, crcSteps_xor, crcUpdate, crcUpdate]

/-- The polynomial has bit 31, the shift clears it: bit 31 after a step is the bit 0 it tested. -/
theorem crcStep_bit31 (c : Word) : (crcStep c).getLsbD 31 = c.getLsbD 0 := by
  rw [crcStep]
  cases c.getLsbD 0 <;> simp

theorem crcStep_injective : Function.Injective crcStep := by
  intro c c' h
  have hbit0 : c.getLsbD 0 = c'.getLsbD 0 := by rw [← crcStep_bit31, h, crcStep_bit31]
  have hshift : c >>> 1 = c' >>> 1 := by
    rw [crcStep, crcStep, hbit0] at h
    split at h
    · exact BitVec.xor_left_inj _ |>.1 h
    · exact h
  refine BitVec.eq_of_getLsbD_eq fun i hi => ?_
  cases i with
  | zero => exact hbit0
  | succ i => simpa [Nat.add_comm] using congrArg (·.getLsbD i) hshift

theorem crcSteps_injective (n : Nat) : Function.Injective (crcSteps n) := by
  induction n with
  | zero => exact Function.injective_id
  | succ n ih => exact ih.comp crcStep_injective

theorem zextByte_injective : Function.Injective zextByte := fun b b' h => by
  simpa [zextByte] using congrArg (BitVec.extractLsb' 0 8) h

theorem crcUpdate_injective_register (b : Byte) : Function.Injective (crcUpdate · b) :=
  fun _ _ h => BitVec.xor_left_inj _ |>.1 (crcSteps_injective 8 h)

theorem crcUpdate_injective_byte (c : Word) : Function.Injective (crcUpdate c) :=
  fun _ _ h => zextByte_injective (BitVec.xor_right_inj _ |>.1 (crcSteps_injective 8 h))

/-- Settles O50: both maps are injective, and an injective map on the finitely many registers is bijective. -/
theorem crcUpdateLosesNothing : Obligations.CrcUpdateLosesNothing :=
  ⟨fun b => (crcUpdate_injective_register b).bijective_of_finite, crcUpdate_injective_byte⟩

/-- Settles O45: a function that meets the rule's equation is `crcStep`. -/
theorem crcUpdateIsEightSteps : Obligations.CrcUpdateIsEightSteps := by
  refine ⟨fun f hf c b => ?_, by decide⟩
  obtain rfl : f = crcStep := funext hf
  rfl

end Sys2Proof.Proofs
end

section
/-! PROOFS. What each command of the CRC unit does (41_crc.md R82 to R86). -/

namespace Sys2Proof.Proofs

open Sys2Proof.Machine Sys2Proof.Safety

theorem exec_crcInit (s : State) :
    exec .crcInit s = .next ⟨{ s.block with crc := Config.crcInit }, s.inputs, some ⟨.ok, 0x00000000⟩⟩ := rfl

theorem exec_crcByte (b : Byte) (s : State) :
    exec (.crcByte b) s = .next ⟨{ s.block with crc := crcUpdate s.block.crc b }, s.inputs,
      some ⟨.ok, crcOut (crcUpdate s.block.crc b)⟩⟩ := rfl

theorem exec_crcTag_of_tagHeld {s : State} (hv : s.block.tagValid = true) :
    exec .crcTag s = .next ⟨{ s.block with crc := crcBytes s.block.crc (tagBytes s.block.tag) }, s.inputs,
      some ⟨.ok, crcOut (crcBytes s.block.crc (tagBytes s.block.tag))⟩⟩ := by
  rw [exec, execCrcTag, needTag_of_valid _ s hv, absorb_eq]

theorem exec_crcRead (s : State) :
    exec .crcRead s = .next ⟨s.block, s.inputs, some ⟨.ok, crcOut s.block.crc⟩⟩ := rfl

theorem exec_crcCheck (e : Word) (s : State) :
    exec (.crcCheck e) s = .next
      ⟨s.block, s.inputs, some ⟨if e = crcOut s.block.crc then .ok else .crcMismatch, crcOut s.block.crc⟩⟩ := by
  rw [exec, execCrcCheck]
  by_cases h : crcOut s.block.crc = e <;> simp [h, eq_comm (a := e)]

/-- `CrcOut` is its own inverse, so a checksum fixes its remainder (41_crc.md R78). -/
theorem eq_crcOut_comm (c e : Word) : e = crcOut c ↔ c = crcOut e :=
  eq_comm.trans (Function.Involutive.eq_iff crcOut_crcOut)

theorem crcOut_crcInit : crcOut Config.crcInit = 0x00000000 := by decide

/-- The byte meets the register in bits 7:0 only. -/
theorem xor_zextByte (c : Word) (b : Byte) :
    c ^^^ zextByte b = (c.extractLsb' 8 24 ++ (c.extractLsb' 0 8 ^^^ b) : Word) := by
  conv_lhs => rw [← append_bits31_8 c, zextByte, zext_byte_eq_append]
  exact BitVec.xor_append.trans (congrArg (· ++ _) BitVec.xor_zero)

/-- Settles O28: the state after does not depend on the register before, so a second `CRC_INIT` and one in the reset
state keep it. -/
theorem crcInitStartsMessage : Obligations.CrcInitStartsMessage := by
  refine ⟨rfl, exec_crcInit, fun s => execAll_twice (exec_crcInit s) (exec_crcInit _), fun s hs => ?_,
    fun s => ⟨_, exec_crcInit s, crcOut_crcInit⟩⟩
  rw [exec_crcInit, hs]
  rfl

/-- Settles O29: register and byte reach the eight steps only in bits 31:8 and in `c[7:0] ^ b`. -/
theorem crcByteAbsorbsByte : Obligations.CrcByteAbsorbsByte := by
  refine ⟨fun b => rfl, fun s b => exec_crcByte b s, fun c b c' b' hhigh hlow => ?_, by decide, by decide,
    by decide +kernel, ⟨_, _, execAll_crcByte_twice_ne⟩⟩
  rw [crcUpdate, crcUpdate, xor_zextByte, xor_zextByte, hhigh, hlow]

/-- Settles O30: the fold of the tag bytes is the four nested updates, and the four `CRC_BYTE`s are the same fold. -/
theorem crcTagAbsorbsTagBytes : Obligations.CrcTagAbsorbsTagBytes := by
  refine ⟨rfl, fun s c' hv hc => ?_, fun s => exec_of_noTag (.inr (.inr (.inr rfl))),
    fun s => exec_crcTag_of_tagHeld⟩
  subst hc
  exact exec_crcTag_of_tagHeld hv

/-- Settles O31: `CRC_READ` writes nothing, and the checksum of the initial register is 0. -/
theorem crcReadReturnsChecksum : Obligations.CrcReadReturnsChecksum := by
  refine ⟨rfl, fun s => ⟨exec_crcRead s, rfl⟩, fun s => ?_, fun s hs => ?_⟩
  · exact ⟨_, (execAll_cons (exec_crcInit s)).trans (execAll_cons (exec_crcRead _)),
      congrArg (fun x => some (Response.mk .ok x)) crcOut_crcInit⟩
  · rw [exec_crcRead, hs]
    rfl

/-- Settles O32: the status compares the operand with the checksum, which fixes the register. -/
theorem crcCheckComparesChecksum : Obligations.CrcCheckComparesChecksum := by
  refine ⟨fun e => rfl, fun s e h => ?_, fun s e h => ?_, fun s e => ?_⟩
  · rw [exec_crcCheck, if_pos (show e = crcOut s.block.crc from h.symm)]; rfl
  · rw [exec_crcCheck, if_neg (show e ≠ crcOut s.block.crc from h.symm)]; rfl
  · refine Iff.trans ?_ (eq_crcOut_comm s.block.crc e)
    simp [exec_crcCheck]

end Sys2Proof.Proofs
end

section
/-! PROOFS. What the response of a CRC command says of the checksum (41_crc.md R87). -/

namespace Sys2Proof.Proofs

open Sys2Proof.Machine Sys2Proof.Safety

/-- A cycle that accepts a command's word is that command, its pins used up. -/
theorem step_of_acceptsNow_encode {s : State} {i : Instr} (h : AcceptsNow s (encode i)) :
    step s = exec i ⟨s.block, s.inputs.tail, none⟩ :=
  (step_of_acceptsNow h).trans (execWord_of_decode (decode_encode i) _)

/-- All that a CRC command can do: it writes at most `crc` and answers the checksum of what it left there, or it is
`CRC_TAG` without a tag. -/
theorem exec_crcUnit_cases {i : Instr} (hi : OfCrcUnit i) (s : State) :
    (i = .crcTag ∧ exec i s = .next ⟨s.block, s.inputs, some ⟨.noTag, 0x00000000⟩⟩) ∨
      ∃ c st, st ≠ .noTag ∧
        exec i s = .next ⟨{ s.block with crc := c }, s.inputs, some ⟨st, crcOut c⟩⟩ := by
  obtain rfl | ⟨b, rfl⟩ | rfl | rfl | ⟨e, rfl⟩ := hi
  · exact .inr ⟨Config.crcInit, .ok, by decide, by rw [exec_crcInit, crcOut_crcInit]⟩
  · exact .inr ⟨_, .ok, by decide, exec_crcByte b s⟩
  · cases hv : s.block.tagValid with
    | true => exact .inr ⟨_, .ok, by decide, exec_crcTag_of_tagHeld hv⟩
    | false => exact .inl ⟨rfl, exec_of_noTag (.inr (.inr (.inr rfl))) hv⟩
  · exact .inr ⟨s.block.crc, .ok, by decide, exec_crcRead s⟩
  · exact .inr ⟨s.block.crc, _, by split <;> decide, exec_crcCheck e s⟩

/-- Settles O53: a CRC command that leaves `c` answers the checksum of `c`; `CRC_INIT` answers 0, and the two that only
read keep the block. -/
theorem crcResultIsNextCrcOut : Obligations.CrcResultIsNextCrcOut := by
  intro s i hi hacc
  have hstep := step_of_acceptsNow_encode hacc
  obtain ⟨rfl, hexec⟩ | ⟨c, st, hst, hexec⟩ := exec_crcUnit_cases hi ⟨s.block, s.inputs.tail, none⟩
  · exact ⟨_, _, hstep.trans hexec, rfl, by simp⟩
  · refine ⟨_, _, hstep.trans hexec, rfl, fun _ => rfl, fun h => absurd h hst, fun h => ?_, fun h => ?_⟩
    · subst h
      obtain ⟨-, -, hzero⟩ : Config.crcInit = c ∧ .ok = st ∧ 0x00000000 = crcOut c := by
        simpa [exec_crcInit] using hexec
      exact hzero.symm
    · have hblock := exec_block_of_writesNothing (.inr (.inr (.inr (.inr h)))) hexec
      exact congrArg (fun b => crcOut b.crc) hblock

end Sys2Proof.Proofs
end

section
/-! PROOFS. The two units share nothing but `CRC_TAG` (40_chunktype.md law 5, 41_crc.md R89 law 5). -/

namespace Sys2Proof.Proofs

open Sys2Proof.Machine Sys2Proof.Safety

/-- What a ChunkType command answers and leaves in the tag and the flag depends on these two alone. -/
theorem exec_chunkTypeUnit_congr {i : Instr} {s s' : State} (hi : OfChunkTypeUnit i)
    (htag : s.block.tag = s'.block.tag) (hvalid : s.block.tagValid = s'.block.tagValid) :
    ∃ t t', exec i s = .next t ∧ exec i s' = .next t' ∧ t.block.tag = t'.block.tag ∧
      t.block.tagValid = t'.block.tagValid ∧ t.rsp = t'.rsp := by
  obtain ⟨w, rfl⟩ | hread := hi
  · by_cases hw : tagOk w = true
    · exact ⟨_, _, exec_typeLoad_of_tagOk hw s, exec_typeLoad_of_tagOk hw s', rfl, rfl, rfl⟩
    · exact ⟨_, _, exec_typeLoad_of_not_tagOk hw s, exec_typeLoad_of_not_tagOk hw s', rfl, rfl, rfl⟩
  cases hv' : s'.block.tagValid with
  | false =>
    have hneeds : NeedsTag i := hread.imp_right (.imp_right .inl)
    exact ⟨_, _, exec_of_noTag hneeds (hvalid.trans hv'), exec_of_noTag hneeds hv', htag, hvalid, rfl⟩
  | true =>
    have hv := hvalid.trans hv'
    obtain rfl | rfl | ⟨w, rfl⟩ := hread
    · exact ⟨_, _, exec_typeRead_of_tagHeld hv, exec_typeRead_of_tagHeld hv', htag, hvalid, by rw [htag]⟩
    · exact ⟨_, _, exec_typeProps_of_tagHeld hv, exec_typeProps_of_tagHeld hv', htag, hvalid, by rw [htag]⟩
    · exact ⟨_, _, exec_typeEq_of_tagHeld w hv, exec_typeEq_of_tagHeld w hv', htag, hvalid, by rw [htag]⟩

/-- What a CRC command but `CRC_TAG` answers and leaves in `crc` depends on `crc` alone. -/
theorem exec_crcUnit_congr {i : Instr} {s s' : State} (hi : OfCrcUnit i) (hne : i ≠ .crcTag)
    (hcrc : s.block.crc = s'.block.crc) :
    ∃ t t', exec i s = .next t ∧ exec i s' = .next t' ∧ t.block.crc = t'.block.crc ∧ t.rsp = t'.rsp := by
  obtain rfl | ⟨b, rfl⟩ | rfl | rfl | ⟨e, rfl⟩ := hi
  · exact ⟨_, _, exec_crcInit s, exec_crcInit s', rfl, rfl⟩
  · exact ⟨_, _, exec_crcByte b s, exec_crcByte b s', by rw [hcrc], by rw [hcrc]⟩
  · exact absurd rfl hne
  · exact ⟨_, _, exec_crcRead s, exec_crcRead s', hcrc, by rw [hcrc]⟩
  · exact ⟨_, _, exec_crcCheck e s, exec_crcCheck e s', hcrc, by rw [hcrc]⟩

/-- The commands of the ChunkType unit absorb nothing (41_crc.md R89, law 5). -/
theorem absorbedBy_of_chunkTypeUnit {i : Instr} (h : OfChunkTypeUnit i) (b : Block) : absorbedBy b i = [] := by
  obtain ⟨w, rfl⟩ | rfl | rfl | ⟨w, rfl⟩ := h <;> rfl

theorem absorbedBy_of_writesNothing_or_chunkTypeUnit {i : Instr} (h : WritesNothing i ∨ OfChunkTypeUnit i)
    (b : Block) : absorbedBy b i = [] :=
  h.elim (absorbedBy_of_writesNothing · b) (absorbedBy_of_chunkTypeUnit · b)

/-- Settles O43: a ChunkType command absorbs nothing, a CRC command writes at most `crc`, and each reads the registers
of its own unit only. -/
theorem unitsShareOnlyCrcTag : Obligations.UnitsShareOnlyCrcTag := by
  refine ⟨fun i s hi => ?_, fun i s hi => ?_, fun i s s' hi hne hcrc => exec_crcUnit_congr hi hne hcrc,
    fun i s s' hi htag hvalid => exec_chunkTypeUnit_congr hi htag hvalid⟩
  · obtain ⟨b, r, hexec⟩ := exec_of_block i s.block
    have hcrc := exec_crc (by rintro rfl; simp [OfChunkTypeUnit] at hi) (hexec s.inputs s.rsp)
    rw [absorbedBy_of_writesNothing_or_chunkTypeUnit (hi.symm.imp_left .inl)] at hcrc
    exact ⟨_, hexec s.inputs s.rsp, hcrc⟩
  · obtain hcrcUnit | rfl := hi
    · obtain ⟨-, hexec⟩ | ⟨c, st, -, hexec⟩ := exec_crcUnit_cases hcrcUnit s <;> exact ⟨_, hexec, rfl, rfl⟩
    · exact ⟨_, rfl, rfl, rfl⟩

end Sys2Proof.Proofs
end

section
/-! PROOFS. Messages: what a fold of bytes loses, and the canonical sequences of commands that feed one (41_crc.md R81,
R89 laws 2 and 4). -/

namespace Sys2Proof.Proofs

open Sys2Proof.Machine Sys2Proof.Safety

theorem crcBytes_injective_register (m : List Byte) : Function.Injective (crcBytes · m) := by
  induction m with
  | nil => exact Function.injective_id
  | cons b m ih => exact ih.comp (crcUpdate_injective_register b)

theorem crcOut_injective : Function.Injective crcOut := Function.Involutive.injective crcOut_crcOut

/-- The bytes before the change lead to one register, the changed byte to two, and the bytes after keep these apart. -/
theorem crc32_ne_of_byte_ne (m n : List Byte) {b b' : Byte} (h : b ≠ b') :
    crc32 (m ++ b :: n) ≠ crc32 (m ++ b' :: n) := by
  intro heq
  have hfold := crcOut_injective heq
  rw [crcBytes_append, crcBytes_append] at hfold
  exact h (crcUpdate_injective_byte _ (crcBytes_injective_register n hfold))

/-- `CRC_INIT` and the bytes of a message leave the register whose checksum is the message's. -/
theorem execAll_crcInit_crcByte (m : List Byte) (s : State) :
    ∃ q, execAll (.crcInit :: m.map .crcByte) s =
      .next ⟨{ s.block with crc := crcBytes Config.crcInit m }, s.inputs, q⟩ := by
  rw [execAll_cons (exec_crcInit s)]
  exact execAll_crcByte m _

/-- Settles O51: the register after the changed message has another checksum than the operand. -/
theorem oneChangedByteIsDetected : Obligations.OneChangedByteIsDetected := by
  intro m n b b' s h
  obtain ⟨q, hall⟩ := execAll_crcInit_crcByte (m ++ b' :: n) s
  refine ⟨crc32_ne_of_byte_ne m n h, _, hall, ?_⟩
  rw [exec_crcCheck, ← crc32_eq, if_neg (crc32_ne_of_byte_ne m n h)]

/-- The construct path of a chunk holds its tag and absorbs the tag's bytes, then the payload (41_crc.md R81). -/
theorem execAll_chunkCommands {w : Word} (d : List Byte) (hw : tagOk w = true) (s : State) :
    ∃ t, execAll (chunkCommands w d) s = .next t ∧
      t.block = ⟨crcBytes Config.crcInit (tagBytes (tagOfWord w) ++ d), tagOfWord w, true⟩ := by
  rw [crcBytes_append, chunkCommands, List.cons_append, List.cons_append, List.cons_append, List.nil_append,
    execAll_cons (exec_typeLoad_of_tagOk hw s), execAll_cons (exec_crcInit _),
    execAll_cons (exec_crcTag_of_tagHeld rfl)]
  obtain ⟨q, hpayload⟩ := execAll_crcByte d _
  exact ⟨_, hpayload, rfl⟩

/-- Settles O55: the register after the construct path is the remainder of the message, which is all that the port,
`CRC_READ` and `CRC_CHECK` show. -/
theorem chunkChecksumCoversTypeAndPayload : Obligations.ChunkChecksumCoversTypeAndPayload := by
  intro s w d v hw hv
  obtain ⟨t, hall, hblock⟩ := execAll_chunkCommands d hw s
  have hmessage : v = crc32 (tagBytes (tagOfWord w) ++ d) := hv
  have hcrc : crcOut t.block.crc = v := by rw [hblock, hmessage, crc32_eq]
  exact ⟨⟨_, _, exec_typeLoad_of_tagOk hw s, rfl⟩, t, hall, by rw [hblock], by rw [hblock], hcrc,
    by rw [exec_crcRead, hcrc], fun e => by rw [exec_crcCheck, hcrc]⟩

end Sys2Proof.Proofs
end

section
/-! PROOFS. A message cut anywhere and interleaved with idle cycles and other commands (41_crc.md R89 laws 1 and 5). -/

namespace Sys2Proof.Proofs

open Sys2Proof.Machine Sys2Proof.Safety

/-- A sequence without `CRC_INIT` leaves in `crc` the fold of the bytes it absorbs. -/
theorem execAll_crc {is : List Instr} {s t : State} (his : .crcInit ∉ is) (h : execAll is s = .next t) :
    t.block.crc = crcBytes s.block.crc (absorbedByAll is s) := by
  induction is generalizing s with
  | nil => cases h; rfl
  | cons i is ih =>
    obtain ⟨hi, his⟩ := not_or.1 (mt List.mem_cons.2 his)
    obtain ⟨b, r, hexec⟩ := exec_of_block i s.block
    have hexec := hexec s.inputs s.rsp
    rw [execAll_cons hexec] at h
    rw [ih his h, exec_crc (Ne.symm hi) hexec, ← crcBytes_append, absorbedByAll_cons hexec]

/-- Without reset, a run reaches the block that its accepted words alone lead to. -/
theorem runCycles_block_of_filter_cmdValid {ps : List CycleIn} (hps : ∀ p ∈ ps, p.rst = false) {b : Block}
    {q : Option Response} {u : State}
    (hrun : runCycles (ps.filter (·.cmdValid)).length ⟨b, ps.filter (·.cmdValid), q⟩ = .next u)
    (q' : Option Response) :
    ∃ t, runCycles ps.length ⟨b, ps, q'⟩ = .next t ∧ t.block = u.block := by
  induction ps generalizing b q q' with
  | nil => cases hrun; exact ⟨_, rfl, rfl⟩
  | cons p ps ih =>
    obtain ⟨hp, hps⟩ := List.forall_mem_cons.1 hps
    cases hv : p.cmdValid with
    | false =>
      rw [List.filter_cons_of_neg (by simp [hv])] at hrun
      rw [List.length_cons, runCycles_succ (step_of_idleNow (s := ⟨b, p :: ps, q'⟩) ⟨hp, hv⟩)]
      exact ih hps hrun none
    | true =>
      obtain ⟨b', r, hexec⟩ := execWord_of_block p.cmd b
      have hstep (ins q) : step ⟨b, p :: ins, q⟩ = .next ⟨b', ins, some r⟩ :=
        (step_of_acceptsNow (s := ⟨b, p :: ins, q⟩) ⟨hp, hv, rfl⟩).trans (hexec ins none)
      rw [List.filter_cons_of_pos hv, List.length_cons, runCycles_succ (hstep _ _)] at hrun
      rw [List.length_cons, runCycles_succ (hstep _ _)]
      exact ih hps hrun (some r)

/-- Settles O60: the idle cycles fall out of the run, what remains is the sequence of commands, and each command folds
in the bytes it absorbs. -/
theorem messageMayBeInterleaved : Obligations.MessageMayBeInterleaved := by
  refine ⟨crcBytes_append, fun s is ps his hps hfilter => ?_, fun s is his => ?_,
    fun b i hi => absorbedBy_of_writesNothing_or_chunkTypeUnit hi b⟩
  · obtain ⟨t, u, hall, hrun, hblock, -, -⟩ := commandsTakeEffectInCycleOrder is s []
    rw [List.append_nil, ← List.length_map, ← hfilter] at hrun
    obtain ⟨t', hrun', hblock'⟩ := runCycles_block_of_filter_cmdValid hps hrun s.rsp
    exact ⟨t', hrun', by rw [hblock', hblock, execAll_crc his hall]⟩
  · obtain ⟨t, u, hall, -⟩ := commandsTakeEffectInCycleOrder is
      ⟨{ s.block with crc := Config.crcInit }, s.inputs, some ⟨.ok, 0x00000000⟩⟩ []
    exact ⟨_, t, exec_crcInit s, hall, congrArg crcOut (execAll_crc his hall)⟩

end Sys2Proof.Proofs
end

section
/-! PROOFS. `NOP` (42_control.md R95). -/

namespace Sys2Proof.Proofs

open Sys2Proof.Machine

theorem exec_nop (s : State) : exec .nop s = .next ⟨s.block, s.inputs, some ⟨.ok, 0x00000000⟩⟩ := rfl

/-- Settles O23: opcode 0x00 is of form none, so any other operand makes its word illegal. -/
theorem nopDoesNothing : Obligations.NopDoesNothing := by
  refine ⟨by decide, exec_nop, fun x hx => ?_⟩
  have hform : 0x00#8 ∈ [0x00#8, 0x11, 0x12, 0x20, 0x22, 0x23] := by decide
  exact (decode_append_error_iff 0x00 x).2 (.inr (.inl ⟨hform, hx⟩))

end Sys2Proof.Proofs
end

section
/-! PROOFS. Idle cycles can be left out of a sequence of cycles (42_control.md R96). -/

namespace Sys2Proof.Proofs

open Sys2Proof.Machine Sys2Proof.Safety

theorem responses_succ {n : Nat} {s t : State} (h : step s = .next t) :
    responses (n + 1) s = t.rsp.toList ++ responses n t := by
  rw [responses, h]

/-- The pins of one cycle take a block to a block and a response, whatever pins follow and whatever the response of
the cycle before. -/
theorem step_cons_of_block (p : CycleIn) (b : Block) :
    ∃ b' r, ∀ ins q, step ⟨b, p :: ins, q⟩ = .next ⟨b', ins, r⟩ := by
  cases h : samplePins p with
  | reset => exact ⟨_, _, fun ins q => step_of_reset ⟨b, p :: ins, q⟩ h⟩
  | idle => exact ⟨_, _, fun ins q => step_of_idle ⟨b, p :: ins, q⟩ h⟩
  | command w =>
    obtain ⟨b', r, hexec⟩ := execWord_of_block w b
    exact ⟨b', some r, fun ins q => (step_of_command ⟨b, p :: ins, q⟩ w h).trans (hexec ins none)⟩

/-- `n` cycles from `s` and `m` cycles from `s'` end in the same block, with the same responses on the way. -/
def SameOutcome (n : Nat) (s : State) (m : Nat) (s' : State) : Prop :=
  ∃ t u, runCycles n s = .next t ∧ runCycles m s' = .next u ∧ t.block = u.block ∧
    responses n s = responses m s'

/-- A silent first cycle of one run is not seen in its responses. -/
theorem sameOutcome_of_silent_step {n m : Nat} {s t s' : State} (hstep : step s = .next t) (hsilent : t.rsp = none)
    (h : SameOutcome n t m s') : SameOutcome (n + 1) s m s' := by
  obtain ⟨u, u', hrun, hrun', hblock, hrsp⟩ := h
  exact ⟨u, u', (runCycles_succ hstep).trans hrun, hrun', hblock, by rw [responses_succ hstep, hsilent, hrsp]; rfl⟩

/-- A first cycle of each run with one response. -/
theorem sameOutcome_of_step {n m : Nat} {s t s' t' : State} (hstep : step s = .next t) (hstep' : step s' = .next t')
    (heq : t.rsp = t'.rsp) (h : SameOutcome n t m t') : SameOutcome (n + 1) s (m + 1) s' := by
  obtain ⟨u, u', hrun, hrun', hblock, hrsp⟩ := h
  exact ⟨u, u', (runCycles_succ hstep).trans hrun, (runCycles_succ hstep').trans hrun', hblock,
    by rw [responses_succ hstep, responses_succ hstep', heq, hrsp]⟩

/-- The cycles that reset or present a word have the outcome of all cycles. The responses `q` and `q'` from before
may differ, as an idle cycle drops the one held. -/
theorem sameOutcome_filter_not_idle (ps : List CycleIn) (b : Block) (q q' : Option Response) :
    SameOutcome ps.length ⟨b, ps, q⟩ (ps.filter (fun p => p.rst || p.cmdValid)).length
      ⟨b, ps.filter (fun p => p.rst || p.cmdValid), q'⟩ := by
  induction ps generalizing b q q' with
  | nil => exact ⟨_, _, rfl, rfl, rfl, rfl⟩
  | cons p ps ih =>
    by_cases hp : (p.rst || p.cmdValid) = true
    · rw [List.filter_cons, if_pos hp]
      obtain ⟨b', r, hstep⟩ := step_cons_of_block p b
      exact sameOutcome_of_step (hstep _ _) (hstep _ _) rfl (ih b' r r)
    · rw [List.filter_cons, if_neg hp]
      have hidle : IdleNow ⟨b, p :: ps, q⟩ := by simpa [IdleNow, currentPins] using hp
      exact sameOutcome_of_silent_step (step_of_idleNow hidle) rfl (ih b none q')

/-- Settles O5: an idle cycle is silent and keeps the block, so it falls out of the run wherever it stands. -/
theorem idleCyclesDoNotMatter : Obligations.IdleCyclesDoNotMatter := by
  refine ⟨fun s hidle => ?_, fun s ps qs hfilter => ?_⟩
  · have hvalid := rspValid_of_idleNow hidle
    exact ⟨step_of_idleNow hidle, hvalid, rsp_of_not_rspValid hvalid⟩
  · subst hfilter
    exact sameOutcome_filter_not_idle ps s.block s.rsp s.rsp

end Sys2Proof.Proofs
end

section
/-! PROOFS. Every cycle ends, and its outcome is a function of the block and of the pins of the cycle
(60_exceptions.md R114, R115). -/

namespace Sys2Proof.Proofs

open Sys2Proof.Machine Sys2Proof.Safety

/-- From every state a run of any length reaches a next state (60_exceptions.md R114). -/
theorem neverStops (s : State) : NeverStops s := by
  intro n
  induction n generalizing s with
  | zero => exact ⟨s, rfl⟩
  | succ n ih =>
    obtain ⟨b, q, hstep⟩ := step_next s
    obtain ⟨t, hrun⟩ := ih ⟨b, s.inputs.tail, q⟩
    exact ⟨t, (runCycles_succ hstep).trans hrun⟩

/-- Settles O6: an accepted word is answered in its cycle, and a run is a chain of steps that each answer. -/
theorem nothingHangs : Obligations.NothingHangs :=
  ⟨fun _ _ hw => step_answers_of_acceptsNow hw, neverStops⟩

/-- Giving the coming edge the pins it has anyway does not change the step; it makes them stand in the list where the
list is used up. -/
theorem step_presentPins_currentPins (s : State) : step (presentPins (currentPins s) s) = step s := rfl

/-- Settles O7: one pair of next block and response serves every state with this block and these pins. -/
theorem sameCommandSameResult : Obligations.SameCommandSameResult := by
  intro s s' hblock hpins
  obtain ⟨b, r, hstep⟩ := step_cons_of_block (currentPins s) s.block
  have hs := (step_presentPins_currentPins s).symm.trans (hstep s.inputs.tail s.rsp)
  have hs' : step s' = .next ⟨b, s'.inputs.tail, r⟩ := by
    rw [← step_presentPins_currentPins, presentPins, ← hpins, ← hblock]
    exact hstep _ _
  exact ⟨_, _, hs, hs', rfl, rfl, rfl, rfl⟩

end Sys2Proof.Proofs
end

section
/-! PROOFS. What each failing status says of the command, its cause, its effect and its result (60_exceptions.md
R101 to R105, R108). -/

namespace Sys2Proof.Proofs

open Sys2Proof.Machine Sys2Proof.Safety

/-- `TYPE_PARSE_ERROR` is a load of a word that is no tag, and the load clears the tag (60_exceptions.md R102). -/
theorem exec_typeParseError_elim {i : Instr} {s t : State} {r : Response} (h : exec i s = .next t)
    (hr : t.rsp = some r) (hst : r.status = .typeParseError) :
    (∃ x, i = .typeLoad x ∧ tagOk x = false) ∧ t.block = ⟨s.block.crc, zeroTag, false⟩ ∧
      r.result = 0x00000000 := by
  cases exec_origin h hr with
  | typeParseError x command cause response =>
    subst command response
    rw [exec_typeLoad_of_not_tagOk (by simp [cause])] at h
    cases h
    exact ⟨⟨x, rfl, cause⟩, rfl, rfl⟩
  | ok status => simp [status] at hst
  | crcMismatch _ _ _ response | noTag _ _ response => simp [response] at hst

/-- `CRC_MISMATCH` is a check against another checksum, and changes nothing (60_exceptions.md R103). -/
theorem exec_crcMismatch_elim {i : Instr} {s t : State} {r : Response} (h : exec i s = .next t)
    (hr : t.rsp = some r) (hst : r.status = .crcMismatch) :
    (∃ e, i = .crcCheck e ∧ e ≠ crcOut s.block.crc) ∧ t.block = s.block ∧ r.result = crcOut s.block.crc := by
  cases exec_origin h hr with
  | crcMismatch e command cause response =>
    subst command response
    rw [exec_crcCheck] at h
    cases h
    exact ⟨⟨e, rfl, cause⟩, rfl, rfl⟩
  | ok status => simp [status] at hst
  | typeParseError _ _ _ response | noTag _ _ response => simp [response] at hst

/-- `NO_TAG` is a tag-dependent command without a tag, and changes nothing (60_exceptions.md R104). -/
theorem exec_noTag_elim {i : Instr} {s t : State} {r : Response} (h : exec i s = .next t)
    (hr : t.rsp = some r) (hst : r.status = .noTag) :
    NeedsTag i ∧ s.block.tagValid = false ∧ t.block = s.block ∧ r.result = 0x00000000 := by
  cases exec_origin h hr with
  | noTag command cause response =>
    subst response
    rw [exec_of_noTag command cause] at h
    cases h
    exact ⟨command, cause, rfl, rfl⟩
  | ok status => simp [status] at hst
  | typeParseError _ _ _ response | crcMismatch _ _ _ response => simp [response] at hst

/-- No command answers `ILLEGAL_CMD`. -/
theorem exec_status_ne_illegalCmd {i : Instr} {s t : State} {r : Response} (h : exec i s = .next t)
    (hr : t.rsp = some r) : r.status ≠ .illegalCmd := by
  cases exec_origin h hr with
  | ok status => simp [status]
  | typeParseError _ _ _ response | crcMismatch _ _ _ response | noTag _ _ response => simp [response]

/-- `ILLEGAL_CMD` is an illegal word, and changes nothing (60_exceptions.md R105). -/
theorem execWord_illegalCmd_elim {w : CmdWord} {s t : State} {r : Response} (h : execWord w s = .next t)
    (hr : t.rsp = some r) (hst : r.status = .illegalCmd) :
    (∃ e, decode w = .error e) ∧ t.block = s.block ∧ r.result = 0x00000000 := by
  cases hd : decode w with
  | ok i =>
    rw [execWord_of_decode hd] at h
    exact absurd hst (exec_status_ne_illegalCmd h hr)
  | error e =>
    rw [execWord_of_illegal hd] at h
    cases h; cases hr
    exact ⟨⟨e, rfl⟩, rfl, rfl⟩

/-- A word answered with any other status is a command that ran. -/
theorem exec_of_execWord {w : CmdWord} {s t : State} {r : Response} (h : execWord w s = .next t)
    (hr : t.rsp = some r) (hst : r.status ≠ .illegalCmd) : ∃ i, decode w = .ok i ∧ exec i s = .next t := by
  cases hd : decode w with
  | ok i => exact ⟨i, rfl, (execWord_of_decode hd s).symm.trans h⟩
  | error e =>
    rw [execWord_of_illegal hd] at h
    cases h; cases hr
    exact absurd rfl hst

end Sys2Proof.Proofs
end

section
/-! PROOFS. The statements about the statuses (60_exceptions.md R101 to R108). -/

namespace Sys2Proof.Proofs

open Sys2Proof.Machine Sys2Proof.Safety

/-- With "RuSt" held and the register just initialised, each of the ten commands answers `OK` to an operand of its
own. -/
theorem every_opcode_answers_ok : ∀ o ∈ [0x00#8, 0x10, 0x11, 0x12, 0x13, 0x20, 0x21, 0x22, 0x23, 0x24],
    ∃ i s t x, opcodeOf i = o ∧ exec i s = .next t ∧ t.rsp = some ⟨.ok, x⟩ := by
  have hheld : rustHeld.block.tagValid = true := rfl
  have hcheck : crcOut rustHeld.block.crc = 0x00000000 := crcOut_crcInit
  simp only [List.forall_mem_cons]
  exact ⟨⟨.nop, rustHeld, _, _, rfl, exec_nop _, rfl⟩,
    ⟨.typeLoad 0x52755374, rustHeld, _, _, rfl, exec_typeLoad_of_tagOk (by decide) _, rfl⟩,
    ⟨.typeRead, rustHeld, _, _, rfl, exec_typeRead_of_tagHeld hheld, rfl⟩,
    ⟨.typeProps, rustHeld, _, _, rfl, exec_typeProps_of_tagHeld hheld, rfl⟩,
    ⟨.typeEq 0, rustHeld, _, _, rfl, exec_typeEq_of_tagHeld 0 hheld, rfl⟩,
    ⟨.crcInit, rustHeld, _, _, rfl, exec_crcInit _, rfl⟩,
    ⟨.crcByte 0, rustHeld, _, _, rfl, exec_crcByte 0 _, rfl⟩,
    ⟨.crcTag, rustHeld, _, _, rfl, exec_crcTag_of_tagHeld hheld, rfl⟩,
    ⟨.crcRead, rustHeld, _, _, rfl, exec_crcRead _, rfl⟩,
    ⟨.crcCheck 0, rustHeld, _, _, rfl, exec_crcCheck 0 _, by rw [if_pos hcheck.symm]⟩,
    by simp⟩

/-- Settles O33: each failing status by what it says of the command and the result. -/
theorem statusOrigins : Obligations.StatusOrigins := by
  refine ⟨⟨rfl, rfl, rfl, rfl, rfl, fun st => by cases st <;> decide⟩, fun s w => ?_, every_opcode_answers_ok⟩
  obtain ⟨t, r, hword, hr⟩ := execWord_answers w s
  refine ⟨t, r, hword, hr, fun hst => ?_, fun hst => ?_, fun hst => ?_, fun hst => ?_⟩
  · obtain ⟨i, hd, hexec⟩ := exec_of_execWord hword hr (by simp [hst])
    obtain ⟨⟨x, rfl, hx⟩, -, hresult⟩ := exec_typeParseError_elim hexec hr hst
    exact ⟨⟨x, hd, hx⟩, hresult⟩
  · obtain ⟨i, hd, hexec⟩ := exec_of_execWord hword hr (by simp [hst])
    obtain ⟨⟨e, rfl, he⟩, -, hresult⟩ := exec_crcMismatch_elim hexec hr hst
    exact ⟨⟨e, hd, he⟩, hresult⟩
  · obtain ⟨i, hd, hexec⟩ := exec_of_execWord hword hr (by simp [hst])
    obtain ⟨hi, hv, -, hresult⟩ := exec_noTag_elim hexec hr hst
    exact ⟨⟨i, hd, hi⟩, hv, hresult⟩
  · obtain ⟨hillegal, -, hresult⟩ := execWord_illegalCmd_elim hword hr hst
    exact ⟨hillegal, hresult⟩

/-- The block holds zero tag bytes when it meets the invariant without a tag (10_state.md R15). -/
theorem tag_eq_zeroTag {b : Block} (hb : BlockInv b) (hv : b.tagValid = false) : b.tag = zeroTag := by
  obtain ⟨h0, h1, h2, h3⟩ := hb.2 hv
  exact (Tag.mk.injEq ..).mpr ⟨h0, h1, h2, h3⟩

/-- Settles O35: each failing status by what it says of the block and the result. -/
theorem failureEffects : Obligations.FailureEffects := by
  intro s w hs
  obtain ⟨t, r, hword, hr⟩ := execWord_answers w s
  refine ⟨t, r, hword, hr, fun hst => ?_, fun hst => ?_, fun hst => ?_, fun hst => ?_⟩
  · obtain ⟨i, -, hexec⟩ := exec_of_execWord hword hr (by simp [hst])
    exact (exec_typeParseError_elim hexec hr hst).2
  · obtain ⟨i, -, hexec⟩ := exec_of_execWord hword hr (by simp [hst])
    exact (exec_crcMismatch_elim hexec hr hst).2
  · obtain ⟨i, -, hexec⟩ := exec_of_execWord hword hr (by simp [hst])
    obtain ⟨-, hv, hblock, hresult⟩ := exec_noTag_elim hexec hr hst
    rw [hblock]
    exact ⟨rfl, tag_eq_zeroTag hs hv, hv, hresult⟩
  · exact (execWord_illegalCmd_elim hword hr hst).2

/-- A command whose own tests all pass, or which has none, answers `OK` (60_exceptions.md R107). -/
theorem exec_status_ok {i : Instr} {s t : State} {r : Response} (h : exec i s = .next t) (hr : t.rsp = some r)
    (htag : NeedsTag i → s.block.tagValid = true) (hload : ∀ x, i ≠ .typeLoad x)
    (hcheck : ∀ e, i ≠ .crcCheck e) : r.status = .ok := by
  cases exec_origin h hr with
  | ok status => exact status
  | typeParseError x command => exact absurd command (hload x)
  | crcMismatch e command => exact absurd command (hcheck e)
  | noTag command cause => exact absurd (cause.symm.trans (htag command)) Bool.false_ne_true

theorem exec_typeLoad_status {x : Word} {s t : State} {r : Response} (h : exec (.typeLoad x) s = .next t)
    (hr : t.rsp = some r) : r.status = if tagOk x then .ok else .typeParseError := by
  by_cases hx : tagOk x = true
  · rw [exec_typeLoad_of_tagOk hx] at h
    cases h; cases hr
    rw [if_pos hx]
  · rw [exec_typeLoad_of_not_tagOk hx] at h
    cases h; cases hr
    rw [if_neg hx]

/-- Settles O34: a clause for each test, in the order of R107. -/
theorem statusPriority : Obligations.StatusPriority := by
  refine ⟨fun s w => ?_, fun s hreset => ⟨rspValid_of_resetNow hreset, _, step_of_resetNow hreset, rfl⟩⟩
  obtain ⟨t, r, hexec, hr⟩ := execWord_answers w s
  refine ⟨t, r, hexec, hr, fun e hd => ?_, fun i hd => ?_⟩
  · rw [execWord_of_illegal hd] at hexec
    cases hexec; cases hr
    rfl
  rw [execWord_of_decode hd] at hexec
  refine ⟨fun hi hv => ?_, fun x hi => ?_, fun e hi => ?_, exec_status_ok hexec hr⟩
  · rw [exec_of_noTag hi hv] at hexec
    cases hexec; cases hr
    rfl
  · subst hi
    exact exec_typeLoad_status hexec hr
  · subst hi
    rw [exec_crcCheck] at hexec
    cases hexec; cases hr
    simp only [eq_comm (a := e)]

/-- A word is no tag exactly when one of its bytes is outside both letter ranges (40_chunktype.md R60, R61). -/
theorem not_tagOk_iff (w : Word) : ¬ tagOk w = true ↔ ∃ k ∈ [24, 16, 8, 0],
    ¬ (0x41 ≤ (w.extractLsb' k 8).toNat ∧ (w.extractLsb' k 8).toNat ≤ 0x5A) ∧
    ¬ (0x61 ≤ (w.extractLsb' k 8).toNat ∧ (w.extractLsb' k 8).toNat ≤ 0x7A) := by
  simp only [tagOk_iff, isLetter_iff, isUpper_iff, isLower_iff, lane0, lane1, lane2, lane3, ← not_or]
  simp only [List.mem_cons, List.not_mem_nil, or_false, exists_eq_or_imp, exists_eq_left]
  tauto

/-- Settles O36: a load answers the error exactly when its word is no tag; a text of another length has no word. -/
theorem typeParseErrorCause : Obligations.TypeParseErrorCause := by
  refine ⟨fun s w => ?_, fun s w t x hexec hr => ?_, fun text hlength => ?_⟩
  · rw [← not_tagOk_iff]
    constructor
    · rintro ⟨t, x, hexec, hr⟩ hok
      obtain ⟨⟨_, ⟨rfl⟩, hnot⟩, -⟩ := exec_typeParseError_elim hexec hr rfl
      exact Bool.false_ne_true (hnot.symm.trans hok)
    · exact fun hnot => ⟨_, _, exec_typeLoad_of_not_tagOk hnot s, rfl⟩
  · obtain ⟨-, hblock, hresult⟩ := exec_typeParseError_elim hexec hr rfl
    exact ⟨hresult, hblock⟩
  · exact expand_typeLoadT_of_none (textWord_eq_none (.inl hlength))

/-- Settles O37: the status says the cause, and a check against another checksum answers it. -/
theorem crcMismatchCause : Obligations.CrcMismatchCause := by
  refine ⟨fun s i => ⟨?_, ?_⟩, fun s i t x hexec hr => ?_⟩
  · rintro ⟨t, x, hexec, hr⟩
    obtain ⟨⟨e, rfl, he⟩, -⟩ := exec_crcMismatch_elim hexec hr rfl
    exact ⟨e, rfl, he.symm⟩
  · rintro ⟨e, rfl, he⟩
    exact ⟨_, _, exec_crcCheck e s, by rw [if_neg he.symm]⟩
  · obtain ⟨-, hblock, hresult⟩ := exec_crcMismatch_elim hexec hr rfl
    exact ⟨hresult, hblock⟩

/-- Settles O38: the status says the cause, and the missing-tag test answers it. -/
theorem noTagCause : Obligations.NoTagCause := by
  refine ⟨fun s i => ⟨?_, fun ⟨hi, hv⟩ => ⟨_, _, exec_of_noTag hi hv, rfl⟩⟩, fun s i => exec_of_noTag⟩
  rintro ⟨t, x, hexec, hr⟩
  obtain ⟨hi, hv, -⟩ := exec_noTag_elim hexec hr rfl
  exact ⟨hi, hv⟩

end Sys2Proof.Proofs
end

section
/-! PROOFS. Reset, and in which cycle a response and the state-derived ports stand (70_reset_and_hazards.md R120,
R128). -/

namespace Sys2Proof.Proofs

open Sys2Proof.Machine Sys2Proof.Safety

/-- A cycle with `rst` at 1 resets, whatever the block and the response before. -/
theorem step_cons_of_rst {p : CycleIn} (hp : p.rst = true) (b : Block) (ins : List CycleIn) (q : Option Response) :
    step ⟨b, p :: ins, q⟩ = .next ⟨resetBlock, ins, none⟩ :=
  step_of_resetNow (s := ⟨b, p :: ins, q⟩) hp

/-- Further reset cycles keep the state that the first one led to. -/
theorem runCycles_resetBlock_of_rst {ps : List CycleIn} (hps : ∀ p ∈ ps, p.rst = true) (rest : List CycleIn) :
    runCycles ps.length ⟨resetBlock, ps ++ rest, none⟩ = .next ⟨resetBlock, rest, none⟩ := by
  induction ps with
  | nil => rfl
  | cons p ps ih =>
    obtain ⟨hp, hps⟩ := List.forall_mem_cons.1 hps
    exact (runCycles_succ (step_cons_of_rst hp _ _ _)).trans (ih hps)

/-- Settles O2: the first reset cycle leads to the reset block, and the later ones stay there. -/
theorem resetWinsFromAnyState : Obligations.ResetWinsFromAnyState := by
  refine ⟨fun s hreset => ?_, fun s ps rest hne hps => ?_⟩
  · have hvalid := rspValid_of_resetNow hreset
    exact ⟨step_of_resetNow hreset, hvalid, rsp_of_not_rspValid hvalid⟩
  · cases ps with
    | nil => exact absurd rfl hne
    | cons p ps =>
      obtain ⟨hp, hps⟩ := List.forall_mem_cons.1 hps
      exact (runCycles_succ (step_cons_of_rst hp _ _ _)).trans (runCycles_resetBlock_of_rst hps rest)

/-- The ports derived from the state are functions of the block (10_state.md R20, R21). -/
theorem statePorts_congr {s s' : State} (hblock : s'.block = s.block) :
    (ports s').crcOut = (ports s).crcOut ∧ (ports s').tagOut = (ports s).tagOut ∧
    (ports s').tagValid = (ports s).tagValid ∧ (ports s').isCritical = (ports s).isCritical ∧
    (ports s').isPublic = (ports s).isPublic ∧ (ports s').isReservedBitValid = (ports s).isReservedBitValid ∧
    (ports s').isSafeToCopy = (ports s).isSafeToCopy := by
  simp [ports, hblock]

/-- Settles O16: `rsp` is a function of the present cycle's step, the other ports of the block before it. -/
theorem responseNowPortsNextCycle : Obligations.ResponseNowPortsNextCycle := by
  refine ⟨fun s => ?_, fun s b hacc => ?_⟩
  · obtain ⟨b, q, hstep⟩ := step_next s
    refine ⟨_, hstep, fun hidle => ?_, fun t' => statePorts_congr⟩
    have hvalid := rspValid_of_idleNow hidle
    exact ⟨hvalid, rsp_of_not_rspValid hvalid⟩
  · have hstep := (step_of_acceptsNow_encode hacc).trans (exec_crcByte b _)
    have hrsp := rsp_of_acceptsNow hacc hstep rfl
    exact ⟨_, hstep, rfl, hrsp, rfl⟩

end Sys2Proof.Proofs
end

section
/-! PROOFS. Two checksums in a row, with and without a `CRC_INIT` between them (70_reset_and_hazards.md R124). -/

namespace Sys2Proof.Proofs

open Sys2Proof.Machine

/-- The bytes of a message and a `CRC_READ` answer the checksum of what `crc` held, continued by the message. -/
theorem execAll_crcByte_crcRead (m : List Byte) (s : State) :
    execAll (m.map .crcByte ++ [.crcRead]) s =
      .next ⟨{ s.block with crc := crcBytes s.block.crc m }, s.inputs,
        some ⟨.ok, crcOut (crcBytes s.block.crc m)⟩⟩ := by
  obtain ⟨q, hbytes⟩ := execAll_crcByte m s
  rw [execAll_append _ _ hbytes, execAll_cons (exec_crcRead _), execAll_nil]

/-- After `CRC_INIT` this is the checksum of the message alone. -/
theorem execAll_crcInit_crcByte_crcRead (m : List Byte) (s : State) :
    execAll (.crcInit :: m.map .crcByte ++ [.crcRead]) s =
      .next ⟨{ s.block with crc := crcBytes Config.crcInit m }, s.inputs, some ⟨.ok, crc32 m⟩⟩ := by
  rw [List.cons_append, execAll_cons (exec_crcInit s), execAll_crcByte_crcRead, crc32_eq]

/-- Settles O54: the first `CRC_READ` leaves the remainder of `m` in `crc`; the bytes of `n` continue it, unless a
`CRC_INIT` starts over. -/
theorem forgottenInitConcatenates : Obligations.ForgottenInitConcatenates := by
  refine ⟨fun s m n => ?_, fun s m n => ?_, by decide +kernel, by decide +kernel⟩
  · rw [List.append_assoc (_ ++ _), execAll_append _ _ (execAll_crcInit_crcByte_crcRead m s),
      execAll_crcByte_crcRead]
    refine ⟨_, rfl, ?_⟩
    simp only [crc32_eq, crcBytes_append]
  · have hsplit : (.crcInit :: m.map .crcByte ++ [.crcRead, .crcInit] ++ n.map .crcByte ++ [.crcRead] : List Instr) =
        (.crcInit :: m.map .crcByte ++ [.crcRead]) ++ (.crcInit :: n.map .crcByte ++ [.crcRead]) := by simp
    rw [hsplit, execAll_append _ _ (execAll_crcInit_crcByte_crcRead m s), execAll_crcInit_crcByte_crcRead]
    exact ⟨_, rfl, rfl⟩

end Sys2Proof.Proofs
end

section
/-! PROOFS. The encoding in both directions (30_encoding.md sections 1 to 3), and the step that accepts the word of a
command. -/

namespace Sys2Proof.Proofs

open Sys2Proof.Machine Sys2Proof.Safety

/-- The word of a decoded command is the word it was decoded from, since both have the same fields. -/
theorem encode_of_decode {w : CmdWord} {i : Instr} (h : decode w = .ok i) : encode i = w := by
  obtain ⟨hop, hoperand⟩ := fields_of_decode h
  rw [encode, ← hop, ← hoperand, append_fields]

/-- No value of `Instr` has a stray operand bit (30_encoding.md R47). -/
theorem wellFormed_eq_true (i : Instr) : wellFormed i = true := by
  cases i with
  | nop | typeRead | typeProps | crcInit | crcTag | crcRead => rfl
  | crcByte b => exact Laws.EncodingFields.byte_wellFormed b
  | typeLoad w | typeEq w | crcCheck w => exact beq_iff_eq.2 BitVec.and_zero

/-- Settles O19: the two fields of the word select the command's row and give its operand back. -/
theorem decodeOfEncode : Obligations.DecodeOfEncode :=
  fun i _ => decode_encode i

/-- Settles O20: the fields of the word are the command's, and the types of `Instr` leave no stray operand bit. -/
theorem encodeOfDecode : Obligations.EncodeOfDecode :=
  fun _ i h => ⟨encode_of_decode h, wellFormed_eq_true i⟩

/-- Settles O17: the five words are written-out encodings, and the decoder runs on the two illegal ones. -/
theorem writtenOutWordsDecode : Obligations.WrittenOutWordsDecode :=
  ⟨decode_encode .nop, decode_encode (.typeLoad 0x52755374), decode_encode (.typeEq 0x00000000),
    decode_encode (.crcByte 0x31), decode_encode (.crcCheck 0xAE426082), rfl, rfl⟩

theorem decode_tableWord {nbits w : Nat} {i : Instr} (h : decodeTableWord nbits w = some i) :
    decode (tableWord nbits w) = .ok i := by
  rw [decodeTableWord] at h
  cases hd : decode (tableWord nbits w) with
  | ok j =>
    rw [hd] at h
    exact congrArg Except.ok (Option.some.inj h)
  | error e => simp [hd] at h

/-- The word put on the port is accepted at the coming edge (log entry 4). -/
theorem acceptsNow_withFetchWord (s : State) (nbits w : Nat) :
    AcceptsNow (s.withFetchWord nbits w) (tableWord nbits w) := ⟨rfl, rfl, rfl⟩

/-- A cycle that accepts a legal word is the decoded command, its pins used up. -/
theorem step_of_acceptsNow_decode {s : State} {w : CmdWord} {i : Instr} (hw : AcceptsNow s w)
    (hd : decode w = .ok i) : step s = exec i ⟨s.block, s.inputs.tail, none⟩ :=
  (step_of_acceptsNow hw).trans (execWord_of_decode hd _)

/-- Settles O3: the word on the pins is executed, and a word that `withFetchWord` put there is on the pins. -/
theorem stepRunsDecodedCommand : Obligations.StepRunsDecodedCommand :=
  ⟨fun _ _ _ => step_of_acceptsNow_decode,
    fun s nbits w _ h => step_of_acceptsNow_decode (acceptsNow_withFetchWord s nbits w) (decode_tableWord h)⟩

end Sys2Proof.Proofs
end

section
/-! PROOFS. The block as 65 bits, its reset value, and who writes each item of it (10_state.md section 2). -/

namespace Sys2Proof.Proofs

open Sys2Proof.Machine Sys2Proof.Safety

/-- Unpacking reads each item of the state back from its place among the 65 bits. -/
theorem unpackBlock_packBlock (b : Block) : unpackBlock (packBlock b) = b := by
  have hcrc : (packBlock b).extractLsb' 33 32 = b.crc :=
    (BitVec.extractLsb'_append_eq_of_le (xhi := b.crc ++ tagWord b.tag) (by decide)).trans
      BitVec.extractLsb'_append_eq_left
  have htag : (packBlock b).extractLsb' 1 32 = tagWord b.tag :=
    (BitVec.extractLsb'_append_eq_of_le (xhi := b.crc ++ tagWord b.tag) (Nat.le_refl 1)).trans
      ((BitVec.extractLsb'_append_eq_of_add_le (xhi := b.crc) (Nat.le_refl 32)).trans BitVec.extractLsb'_eq_self)
  have hvalid : (packBlock b).getLsbD 0 = b.tagValid := by
    rw [packBlock, BitVec.getLsbD_append]
    simp
  rw [unpackBlock, hcrc, htag, hvalid, tagOfWord_tagWord]

/-- The three pieces unpacking cuts a 65-bit value into leave no bit out. -/
theorem packBlock_unpackBlock (v : BitVec 65) : packBlock (unpackBlock v) = v := by
  have hflag : BitVec.ofBool (v.getLsbD 0) = v.extractLsb' 0 1 := by
    refine BitVec.eq_of_getLsbD_eq fun i hi => ?_
    obtain rfl : i = 0 := by omega
    simp
  have hhigh : v.extractLsb' 33 32 ++ v.extractLsb' 1 32 = v.extractLsb' 1 64 :=
    BitVec.extractLsb'_append_extractLsb'_eq_extractLsb' rfl
  have hall : v.extractLsb' 1 64 ++ v.extractLsb' 0 1 = v.extractLsb' 0 65 :=
    BitVec.extractLsb'_append_extractLsb'_eq_extractLsb' rfl
  rw [packBlock, unpackBlock, tagWord_tagOfWord, hflag, hhigh, hall]
  exact BitVec.extractLsb'_eq_self

/-- Settles O9: the two directions. -/
theorem blockStateIs65Bits : Obligations.BlockStateIs65Bits :=
  ⟨unpackBlock_packBlock, packBlock_unpackBlock⟩

/-- Settles O11: the reset block has no tag and four zero tag bytes. -/
theorem resetMeetsInvariant : Obligations.ResetMeetsInvariant := blockInv_resetBlock

/-- A command that changes `crc` is one of the three that write it: any other absorbs no byte. -/
theorem writesCrc_of_exec_crc_ne {i : Instr} {s t : State} (h : exec i s = .next t)
    (hne : t.block.crc ≠ s.block.crc) : i = .crcInit ∨ (∃ b, i = .crcByte b) ∨ i = .crcTag := by
  by_contra! hi
  obtain ⟨hinit, hbyte, htag⟩ := hi
  refine hne ((exec_crc hinit h).trans ?_)
  cases i with
  | crcByte b => exact absurd rfl (hbyte b)
  | crcTag => exact absurd rfl htag
  | nop | typeLoad | typeRead | typeProps | typeEq | crcInit | crcRead | crcCheck => rfl

/-- A word that changes `crc` decodes to one of these three commands; an illegal word changes nothing. -/
theorem decode_of_execWord_crc_ne {w : CmdWord} {s t : State} (h : execWord w s = .next t)
    (hne : t.block.crc ≠ s.block.crc) :
    decode w = .ok .crcInit ∨ (∃ b, decode w = .ok (.crcByte b)) ∨ decode w = .ok .crcTag := by
  cases hd : decode w with
  | ok i =>
    rw [execWord_of_decode hd] at h
    simpa using writesCrc_of_exec_crc_ne h hne
  | error e =>
    rw [execWord_of_illegal hd] at h
    cases h
    exact absurd rfl hne

/-- Settles O13: the accepted word is executed in its cycle; one that writes `crc` is one of three commands, one that
writes the tag or the flag is a load. -/
theorem onlyNamedCommandsWriteState : Obligations.OnlyNamedCommandsWriteState := by
  intro s w hw
  obtain ⟨t, r, hstep, -⟩ := step_answers_of_acceptsNow hw
  have hexec := (step_of_acceptsNow hw).symm.trans hstep
  have hcrc := decode_of_execWord_crc_ne hexec
  refine ⟨t, hstep, hcrc, fun hne => ?_⟩
  by_contra! hload
  obtain ⟨htag, hvalid⟩ := execWord_sameTag hload hexec
  exact hne.elim (absurd htag) (absurd hvalid)

end Sys2Proof.Proofs
end

section
/-! PROOFS. The case bit of one byte of a tag, and what a load answers for the commands after it (40_chunktype.md
section 3, laws 1 to 4 and 6). -/

namespace Sys2Proof.Proofs

open Sys2Proof.Machine Sys2Proof.Safety

/-- The other case of a letter is a letter: the two ranges are 0x20 apart (40_chunktype.md R60). -/
theorem isLetter_xor_caseBit {b : Byte} (h : isLetter b = true) : isLetter (b ^^^ 0x20#8) = true := by
  revert b
  decide

theorem propBit_xor_caseBit (b : Byte) : propBit (b ^^^ 0x20#8) = !propBit b := by
  simp [propBit, Config.propBitIndex]

/-- The tag with bit 5 of its byte `i` flipped. -/
def flipCase (t : Tag) : Nat → Tag
  | 0 => { t with b0 := t.b0 ^^^ 0x20 }
  | 1 => { t with b1 := t.b1 ^^^ 0x20 }
  | 2 => { t with b2 := t.b2 ^^^ 0x20 }
  | 3 => { t with b3 := t.b3 ^^^ 0x20 }
  | _ => t

/-- XOR acts on each byte of a tag word by itself (20_memory.md R34). -/
theorem tagOfWord_xor (w v : Word) : tagOfWord (w ^^^ v) =
    ⟨lane0 w ^^^ lane0 v, lane1 w ^^^ lane1 v, lane2 w ^^^ lane2 v, lane3 w ^^^ lane3 v⟩ := by
  simp only [tagOfWord, lane0, lane1, lane2, lane3, BitVec.extractLsb'_xor]

/-- The mask of bit 5 of byte `i` is zero in the three other bytes. -/
theorem tagOfWord_xor_caseBit (w : Word) {i : Nat} (hi : i < 4) :
    tagOfWord (w ^^^ (0x20#32 <<< (24 - 8 * i))) = flipCase (tagOfWord w) i := by
  rw [tagOfWord_xor]
  interval_cases i <;> simp [lane0, lane1, lane2, lane3, tagOfWord, flipCase]

/-- A tag of four letters stays one. -/
theorem tagLetters_flipCase {t : Tag} (h : tagLetters t = true) (i : Nat) : tagLetters (flipCase t i) = true := by
  simp only [tagLetters, Bool.and_eq_true, and_assoc] at h ⊢
  obtain ⟨h0, h1, h2, h3⟩ := h
  match i with
  | 0 => exact ⟨isLetter_xor_caseBit h0, h1, h2, h3⟩
  | 1 => exact ⟨h0, isLetter_xor_caseBit h1, h2, h3⟩
  | 2 => exact ⟨h0, h1, isLetter_xor_caseBit h2, h3⟩
  | 3 => exact ⟨h0, h1, h2, isLetter_xor_caseBit h3⟩
  | _ + 4 => exact ⟨h0, h1, h2, h3⟩

/-- The property of the flipped byte is negated, and `Props` keeps its three other bits (40_chunktype.md R63). -/
theorem tagProps_flipCase (t : Tag) {i : Nat} (hi : i < 4) : tagProps (flipCase t i) = tagProps t ^^^ (1#4 <<< i) := by
  refine BitVec.eq_of_getElem_eq fun j hj => ?_
  interval_cases i <;> interval_cases j <;>
    simp [flipCase, isCritical, isPublic, isReservedBitValid, isSafeToCopy, propBit_xor_caseBit]

/-- Settles O41: the mask flips bit 5 of one tag byte, which stays a letter and has its property negated. -/
theorem bitFiveFlipsOneProperty : Obligations.BitFiveFlipsOneProperty := by
  intro w i hi hw
  rw [tagOk, props, tagOfWord_xor_caseBit w hi]
  exact ⟨tagLetters_flipCase hw i, tagProps_flipCase _ hi⟩

/-- Settles O42: a successful load holds the tag of `w`, whose word is `w`; a failed one holds none. -/
theorem loadDeterminesLaterAnswers : Obligations.LoadDeterminesLaterAnswers := by
  refine ⟨fun s w x hw => ?_, fun s w i hw hi => ?_⟩
  · refine ⟨_, _, exec_typeLoad_of_tagOk hw s, rfl, ?_, ?_, ?_⟩
    · rw [exec_typeRead_of_tagHeld rfl, tagWord_tagOfWord]
    · rw [exec_typeEq_of_tagHeld x rfl, tagWord_tagOfWord]
    · rw [exec_typeProps_of_tagHeld rfl, tagWord_tagOfWord]
  · exact ⟨_, exec_typeLoad_of_not_tagOk (by simp [hw]) s, exec_of_noTag hi rfl⟩

end Sys2Proof.Proofs
end

section
/-! PROOFS. The two equivalent forms of `CrcUpdate`, its constants, and the checksum of a message fed to the block
(41_crc.md section 1). -/

namespace Sys2Proof.Proofs

open Sys2Proof.Machine Sys2Proof.Safety

/-- While the bits that the steps test are 0, the steps only shift. -/
theorem crcSteps_eq_ushiftRight {n : Nat} {c : Word} (h : ∀ k < n, c.getLsbD k = false) :
    crcSteps n c = c >>> n := by
  induction n generalizing c with
  | zero => rfl
  | succ n ih =>
    have hstep : crcStep c = c >>> 1 := if_neg (Bool.eq_false_iff.1 (h 0 n.succ_pos))
    rw [crcSteps_succ, hstep, ih, ← BitVec.shiftRight_add, Nat.add_comm]
    intro k hk
    rw [BitVec.getLsbD_ushiftRight]
    exact h _ (by omega)

/-- Shifting a byte out leaves bits 31:8, whatever the byte was. -/
theorem ushiftRight_eight (c : Word) : c >>> 8 = (0#8 ++ c.extractLsb' 8 24 : Word) :=
  BitVec.ushiftRight_eq_extractLsb'_of_lt (by decide)

/-- By linearity, eight steps shift bits 31:8 out of their way and act on the low byte by themselves. -/
theorem crcSteps_eight (c : Word) : crcSteps 8 c = (c >>> 8) ^^^ crcTable (c.extractLsb' 0 8) := by
  have hsplit : c = (c.extractLsb' 8 24 ++ 0#8 : Word) ^^^ zextByte (c.extractLsb' 0 8) := by
    rw [xor_zextByte, bits31_8_append, bits7_0_append, BitVec.zero_xor, append_bits31_8]
  have hhigh : crcSteps 8 (c.extractLsb' 8 24 ++ 0#8 : Word) = c >>> 8 := by
    rw [crcSteps_eq_ushiftRight, ushiftRight_eight, bits31_8_append, ← ushiftRight_eight]
    intro k hk
    rw [BitVec.getLsbD_append, if_pos hk, BitVec.getLsbD_zero]
  have hlow (i : Byte) : crcTable i = crcSteps 8 (zextByte i) := congrArg (crcSteps 8) BitVec.zero_xor
  conv_lhs => rw [hsplit, crcSteps_xor, hhigh, ← hlow]

/-- Settles O47: the byte of the message is not among the bits that the shift keeps. -/
theorem tableFormAgrees : Obligations.TableFormAgrees := by
  intro c b
  have hbyte : (c ^^^ zextByte b) >>> 8 = c >>> 8 := by
    rw [ushiftRight_eight, xor_zextByte, bits31_8_append, ← ushiftRight_eight]
  rw [crcUpdate, crcSteps_eight, hbyte, crcUpdateTable]

theorem reverse_xor {w : Nat} (x y : BitVec w) : (x ^^^ y).reverse = x.reverse ^^^ y.reverse := by
  refine BitVec.eq_of_getLsbD_eq fun i hi => ?_
  simp [BitVec.getLsbD_reverse]

theorem reverse_ushiftRight {w : Nat} (x : BitVec w) (n : Nat) : (x >>> n).reverse = x.reverse <<< n := by
  refine BitVec.eq_of_getLsbD_eq fun i hi => ?_
  rw [BitVec.getLsbD_reverse, BitVec.getMsbD_ushiftRight, BitVec.getLsbD_shiftLeft, BitVec.getLsbD_reverse,
    decide_eq_true hi, Bool.true_and, Bool.true_and]

/-- The mirror image of a byte in bits 7:0 is the reversed byte in bits 31:24 (41_crc.md R80). -/
theorem reverse_zextByte (b : Byte) : (zextByte b).reverse = zextByte b.reverse <<< 24 := by
  refine BitVec.eq_of_getLsbD_eq fun i hi => ?_
  rw [BitVec.getLsbD_reverse, zextByte, BitVec.getMsbD_setWidth, BitVec.getLsbD_shiftLeft, zextByte,
    BitVec.getLsbD_setWidth, BitVec.getLsbD_reverse]
  have hplace : i + 8 - 32 = i - 24 := by omega
  have hlt : i - 24 < 32 := by omega
  simp [hi, hplace, hlt, ← decide_not]

/-- The two forms of the polynomial (41_crc.md R75). -/
theorem reverse_crcPolyNormal : Config.crcPolyNormal.reverse = Config.crcPoly := by decide +kernel

theorem reverse_crcPoly : Config.crcPoly.reverse = Config.crcPolyNormal := by
  rw [← reverse_crcPolyNormal, BitVec.reverse_reverse_eq]

/-- Bit 0 of the register is bit 31 of its mirror image, so both forms make the same choice. -/
theorem crcStepNormal_reverse (c : Word) : crcStepNormal c.reverse = (crcStep c).reverse := by
  have hbit : c.reverse.getLsbD 31 = c.getLsbD 0 := by
    rw [BitVec.getLsbD_reverse, BitVec.getMsbD_eq_getLsbD]
    simp
  rw [crcStepNormal, crcStep, hbit]
  split
  · rw [reverse_xor, reverse_ushiftRight, reverse_crcPoly]
  · rw [reverse_ushiftRight]

theorem crcStepsNormal_reverse (n : Nat) (c : Word) : crcStepsNormal n c.reverse = (crcSteps n c).reverse := by
  induction n generalizing c with
  | zero => rfl
  | succ n ih => rw [crcStepsNormal, crcStepNormal_reverse, ih, crcSteps_succ]

theorem crcUpdateNormal_reverse (c : Word) (b : Byte) : crcUpdateNormal c.reverse b = (crcUpdate c b).reverse := by
  rw [crcUpdateNormal, ← reverse_zextByte, ← reverse_xor, crcStepsNormal_reverse, crcUpdate]

theorem crcBytesNormal_reverse (c : Word) (m : List Byte) :
    crcBytesNormal c.reverse m = (crcBytes c m).reverse := by
  induction m generalizing c with
  | nil => rfl
  | cons b m ih => rw [crcBytesNormal, crcUpdateNormal_reverse, ih, crcBytes_cons]

theorem reverse_crcInit : Config.crcInit.reverse = Config.crcInit := by decide +kernel

/-- Settles O48: the mirror image of a fold is the fold of the mirror image, and the initial register is its own. -/
theorem normalFormAgrees : Obligations.NormalFormAgrees := by
  refine ⟨fun c b => ?_, fun m => ?_⟩
  · rw [crcUpdateNormal_reverse, BitVec.reverse_reverse_eq]
  · have hfold := crcBytesNormal_reverse Config.crcInit m
    rw [reverse_crcInit] at hfold
    rw [hfold, BitVec.reverse_reverse_eq, crc32]

/-- Settles O52: after `CRC_INIT` the bytes are folded from the initial register. -/
theorem messageChecksum : Obligations.MessageChecksum := by
  refine ⟨fun s m => ?_, rfl, crcOut_crcOut⟩
  obtain ⟨q, hall⟩ := execAll_crcInit_crcByte m s
  exact ⟨_, hall, rfl, rfl, rfl⟩

/-- Settles O46: the mirror image of the polynomial, and the fold of nine bytes computed. -/
theorem checkValueOfVariant : Obligations.CheckValueOfVariant :=
  ⟨reverse_crcPolyNormal, by decide +kernel⟩

end Sys2Proof.Proofs
end

section
/-! PROOFS. Printed lines read back (30_encoding.md R54). -/

namespace Sys2Proof.Proofs

open Sys2Proof.Machine

/-- A character that may stand in a field: neither a blank nor the start of a comment. -/
def isFieldChar (c : Char) : Bool := !(c == ' ' || c == '\t') && c != ';'

/-- A field as the printer writes it. -/
def isField (f : List Char) : Bool := !f.isEmpty && f.all isFieldChar

theorem isField_elim {f : List Char} (hf : isField f = true) : f.isEmpty = false ∧
    (∀ c ∈ f, (c == ' ' || c == '\t') = false) ∧ ∀ c ∈ f, (c != ';') = true := by
  simp only [isField, isFieldChar, Bool.and_eq_true, Bool.not_eq_true', List.all_eq_true] at hf
  obtain ⟨hne, hchars⟩ := hf
  exact ⟨hne, fun c hc => (hchars c hc).1, fun c hc => (hchars c hc).2⟩

/-- A field is the one field of its line. -/
theorem lineFields_field {f : List Char} (hf : isField f = true) : lineFields f = [f] := by
  obtain ⟨hne, hblank, -⟩ := isField_elim hf
  rw [lineFields, List.splitOnP_eq_singleton hblank]
  simp [hne]

/-- A blank ends a field. -/
theorem lineFields_field_blank {f : List Char} (hf : isField f = true) (rest : List Char) :
    lineFields (f ++ ' ' :: rest) = f :: lineFields rest := by
  obtain ⟨hne, hblank, -⟩ := isField_elim hf
  rw [lineFields, List.splitOnP_append_cons_of_forall_mem hblank ' ' rfl]
  simp [hne, lineFields]

/-- A trailing blank adds no field. -/
theorem lineFields_append_blank (line : List Char) : lineFields (line ++ [' ']) = lineFields line := by
  rw [lineFields, List.splitOnP_append_cons line [] rfl, List.filter_append]
  simp [lineFields]

theorem isFieldChar_hexDigit (n : BitVec 4) : isFieldChar (hexDigit n) = true := by
  revert n
  decide

theorem isField_hex (ns : List (BitVec 4)) : isField ('0' :: 'x' :: ns.map hexDigit) = true := by
  have hdigits : (ns.map hexDigit).all isFieldChar = true := by simp [isFieldChar_hexDigit]
  exact hdigits

theorem isField_mnemonicOf (i : Instr) : isField (mnemonicOf i) = true := by
  cases i <;> rfl

/-- The printed operand of a command, none for a command without operand. -/
def operandFields : Instr → List (List Char)
  | .typeLoad w | .typeEq w | .crcCheck w => [wordHex w]
  | .crcByte b => [byteHex b]
  | _ => []

/-- A printed command is its mnemonic, with the operand after a blank. -/
theorem commandLine_cases (i : Instr) :
    (operandFields i = [] ∧ commandLine i = mnemonicOf i) ∨
    ∃ o, isField o = true ∧ operandFields i = [o] ∧ commandLine i = mnemonicOf i ++ ' ' :: o := by
  cases i with
  | nop | typeRead | typeProps | crcInit | crcTag | crcRead => exact .inl ⟨rfl, rfl⟩
  | typeLoad w | typeEq w | crcCheck w => exact .inr ⟨_, isField_hex [_, _, _, _, _, _, _, _], rfl, rfl⟩
  | crcByte b => exact .inr ⟨_, isField_hex [_, _], rfl, rfl⟩

theorem lineFields_commandLine (i : Instr) : lineFields (commandLine i) = mnemonicOf i :: operandFields i := by
  have hm := isField_mnemonicOf i
  obtain ⟨hops, hline⟩ | ⟨o, ho, hops, hline⟩ := commandLine_cases i
  · rw [hline, hops, lineFields_field hm]
  · rw [hline, hops, lineFields_field_blank hm, lineFields_field ho]

/-- No printed command holds the start of a comment. -/
theorem not_comment_of_mem_commandLine (i : Instr) : ∀ c ∈ commandLine i, (c != ';') = true := by
  obtain ⟨-, -, hm⟩ := isField_elim (isField_mnemonicOf i)
  obtain ⟨-, hline⟩ | ⟨o, ho, -, hline⟩ := commandLine_cases i
  · rwa [hline]
  · obtain ⟨-, -, hoperand⟩ := isField_elim ho
    rw [hline, List.forall_mem_append, List.forall_mem_cons]
    exact ⟨hm, rfl, hoperand⟩

theorem dropComment_commandLine (i : Instr) : dropComment (commandLine i) = commandLine i :=
  List.takeWhile_eq_self_iff.2 (not_comment_of_mem_commandLine i)

theorem dropComment_commandLine_comment (i : Instr) (comment : List Char) :
    dropComment (commandLine i ++ [' ', ';'] ++ comment) = commandLine i ++ [' '] := by
  rw [dropComment, List.append_assoc, List.takeWhile_append_of_pos (not_comment_of_mem_commandLine i)]
  rfl

/-- The reader gives each printed digit its nibble. -/
theorem hexDigitValue_hexDigit (n : BitVec 4) : hexDigitValue (hexDigit n) = some n.toNat := by
  revert n
  decide

/-- One more printed digit of a number: from its bits above the digit to those from the digit on. -/
theorem digitsValue_hexDigit {n : Nat} (x : BitVec n) (k : Nat) (cs : List Char) :
    digitsValue 16 hexDigitValue (x.toNat / 2 ^ (k + 4)) (hexDigit (x.extractLsb' k 4) :: cs) =
      digitsValue 16 hexDigitValue (x.toNat / 2 ^ k) cs := by
  have hdigit : 16 * (x.toNat / 2 ^ (k + 4)) + (x.extractLsb' k 4).toNat = x.toNat / 2 ^ k := by
    rw [BitVec.extractLsb'_toNat, Nat.shiftRight_eq_div_pow, Nat.pow_add, ← Nat.div_div_eq_div_mul]
    omega
  rw [digitsValue, hexDigitValue_hexDigit, ← hdigit]

/-- Reading starts above the bits of the number, where there is nothing. -/
theorem operandValue_hex {digits n : Nat} {hs : List Char} (h : hs.length = digits) (x : BitVec n) :
    operandValue digits ('0' :: 'x' :: hs) = digitsValue 16 hexDigitValue (x.toNat / 2 ^ n) hs := by
  rw [Nat.div_eq_of_lt x.isLt]
  exact if_pos h

theorem operandValue_byteHex (b : Byte) : operandValue 2 (byteHex b) = some b.toNat := by
  refine (operandValue_hex rfl b).trans ?_
  iterate 2 rw [digitsValue_hexDigit]
  rw [digitsValue, pow_zero, Nat.div_one]

theorem operandValue_wordHex (w : Word) : operandValue 8 (wordHex w) = some w.toNat := by
  refine (operandValue_hex rfl w).trans ?_
  iterate 8 rw [digitsValue_hexDigit]
  rw [digitsValue, pow_zero, Nat.div_one]

/-- The row of a command in the table of mnemonics. -/
def shapeOf : Instr → Mnemonic
  | .typeLoad _ => .word .typeLoad
  | .typeEq _ => .word .typeEq
  | .crcByte _ => .byte .crcByte
  | .crcCheck _ => .word .crcCheck
  | i => .plain i

theorem lookup_mnemonicOf (i : Instr) : mnemonics.lookup (mnemonicOf i) = some (shapeOf i) := by
  cases i <;> rfl

theorem assembleFields_operandFields (i : Instr) : assembleFields (shapeOf i) (operandFields i) = .ok i := by
  cases i with
  | nop | typeRead | typeProps | crcInit | crcTag | crcRead => rfl
  | typeLoad w | typeEq w | crcCheck w => simp [shapeOf, operandFields, assembleFields, operandValue_wordHex]
  | crcByte b => simp [shapeOf, operandFields, assembleFields, operandValue_byteHex]

/-- A line whose fields are those of a printed command is that command. -/
theorem assembleLine_of_fields {line : List Char} {i : Instr}
    (h : lineFields (dropComment line) = mnemonicOf i :: operandFields i) : assembleLine line = .ok (some i) := by
  rw [assembleLine, h]
  simp only [lookup_mnemonicOf, assembleFields_operandFields]

end Sys2Proof.Proofs
end

section
/-! PROOFS. Tag words rendered as text (30_encoding.md R57), and the statement about the assembler. -/

namespace Sys2Proof.Proofs

open Sys2Proof.Machine

theorem byteChar_toNat (b : Byte) : (byteChar b).toNat = b.toNat := by
  rw [byteChar, Char.toNat_ofNat, if_pos]
  exact .inl (by omega)

theorem byteChar_le (b : Byte) : (byteChar b).toNat ≤ 0xFF := by
  rw [byteChar_toNat]
  omega

theorem codeByte_byteChar (b : Byte) : codeByte (byteChar b) = b := by
  rw [codeByte, byteChar_toNat, BitVec.ofNat_toNat, BitVec.setWidth_eq]

/-- The four characters of a word's bytes make the word. -/
theorem textWord_byteChars (w : Word) : textWord ((tagBytes (tagOfWord w)).map byteChar) = some w := by
  refine (textWord_of_four (byteChar_le _) (byteChar_le _) (byteChar_le _) (byteChar_le _)).trans ?_
  simp only [codeByte_byteChar]
  exact congrArg some (tagWord_tagOfWord w)

/-- Settles O57: the fields of a printed line, with a comment or without, are the command's, and each digit and each
character is read back as printed. -/
theorem assemblerInvertsPrinting : Obligations.AssemblerInvertsPrinting := by
  refine ⟨fun i => ?_, fun i comment => ?_, fun w hw => ?_⟩
  · refine assembleLine_of_fields ?_
    rw [dropComment_commandLine, lineFields_commandLine]
  · refine assembleLine_of_fields ?_
    rw [dropComment_commandLine_comment, lineFields_append_blank, lineFields_commandLine]
  · exact ⟨_, if_pos hw, rfl, textWord_byteChars w⟩

end Sys2Proof.Proofs
end
